-- ==== Sys2Proof/Word.lean ====
section
/-! DEFINITION. The two word types of the block: the 32-bit bus word and the byte (00_scope.md R8, R9). -/

namespace Sys2Proof

/-- A bus word, a register, a SHA-1 word: 32 bits (R8 BUS_DATA_BITS). -/
abbrev Word := BitVec 32

/-- One byte: a key byte, a character code, a digest byte. -/
abbrev Byte := BitVec 8

end Sys2Proof
end

