-- ==== Sys2Proof/Syntax.lean ====
section
/-! DEFINITION. The commands of 30_encoding.md R303, one constructor per row of the opcode table. -/

namespace Sys2Proof

/-- A command. The only operands in a command word are the character of B32CHAR and the key byte of KEYBYTE,
each one unsigned byte (R301, R302). -/
inductive Instr where
  /-- NOP, R700 -/
  | nop
  /-- SRST, R705 -/
  | srst
  /-- CLRERR, R710 -/
  | clrerr
  /-- B32BEGIN, R410 -/
  | b32begin
  /-- B32CHAR c, R420 -/
  | b32char (c : Byte)
  /-- B32END, R430 -/
  | b32end
  /-- KEYCLR, R440 -/
  | keyclr
  /-- KEYBYTE b, R441 -/
  | keybyte (b : Byte)
  /-- HMAC, R535 -/
  | hmac
  /-- HOTP, R620 -/
  | hotp
  /-- TRUNC, R600 -/
  | trunc
  /-- MOD, R610 -/
  | mod
deriving DecidableEq, Repr

end Sys2Proof
end

