-- ==== Sys2Proof/WellFormed.lean ====
section
/-! DEFINITION. Well-formedness: of a command as a term, and of a command word as 30_encoding.md R305 lists it. -/

namespace Sys2Proof

/-- Every command term is well formed: the operand is a byte by its type, and "any byte value is admitted"
(30_encoding.md R301), so a term has nothing left to check. -/
def Instr.wellFormed : Instr → Bool
  | .nop => true
  | .srst => true
  | .clrerr => true
  | .b32begin => true
  | .b32char _ => true
  | .b32end => true
  | .keyclr => true
  | .keybyte _ => true
  | .hmac => true
  | .hotp => true
  | .trunc => true
  | .mod => true

/-- First check of R305: the OP value is in the table (not 0x03 to 0x0F, 0x13 to 0x17, 0x1A to 0x1F, 0x22 to 0x2F
or 0x32 to 0xFF). -/
def opListed (w : Word) : Bool :=
  let op := w.toNat % 256
  !((0x03 ≤ op && op ≤ 0x0F) || (0x13 ≤ op && op ≤ 0x17) || (0x1A ≤ op && op ≤ 0x1F)
    || (0x22 ≤ op && op ≤ 0x2F) || (0x32 ≤ op && op ≤ 0xFF))

/-- Second check of R305: bits 31:16 (ZERO) are zero. -/
def zeroFieldClear (w : Word) : Bool := w.toNat / 2 ^ 16 == 0

/-- Third check of R305: IMM8 is zero unless the OP is that of B32CHAR (0x11) or KEYBYTE (0x19). -/
def immAllowed (w : Word) : Bool :=
  w.toNat % 256 == 0x11 || w.toNat % 256 == 0x19 || w.toNat / 2 ^ 8 % 256 == 0

/-- A command word that R305 does not call illegal. -/
def wordWellFormed (w : Word) : Bool := opListed w && zeroFieldClear w && immAllowed w

end Sys2Proof
end

