-- ==== Sys2Proof/Decode.lean ====
section
/-! DEFINITION. Decoder and encoder of command words, from the match and mask columns of 30_encoding.md R303. -/

namespace Sys2Proof

/-- A row of R303: a word `w` is this command when `(w and mask) = value`; `build` makes the command from IMM8. -/
structure Row where
  mnemonic : String
  value : Word
  mask : Word
  build : Byte → Instr

/-- Field OP, bits 7:0 (R300). -/
def opField (w : Word) : Byte := w.extractLsb' 0 8

/-- Field IMM8, bits 15:8 (R300), an unsigned byte used as is (R301). -/
def imm8Field (w : Word) : Byte := w.extractLsb' 8 8

/-- Field ZERO, bits 31:16 (R300). -/
def zeroField (w : Word) : BitVec 16 := w.extractLsb' 16 16

/-- The rows of R303, in the table's order. -/
def rows : List Row :=
  [ ⟨"NOP",      0x00000000, 0xFFFFFFFF, fun _ => .nop⟩
  , ⟨"SRST",     0x00000001, 0xFFFFFFFF, fun _ => .srst⟩
  , ⟨"CLRERR",   0x00000002, 0xFFFFFFFF, fun _ => .clrerr⟩
  , ⟨"B32BEGIN", 0x00000010, 0xFFFFFFFF, fun _ => .b32begin⟩
  , ⟨"B32CHAR",  0x00000011, 0xFFFF00FF, .b32char⟩
  , ⟨"B32END",   0x00000012, 0xFFFFFFFF, fun _ => .b32end⟩
  , ⟨"KEYCLR",   0x00000018, 0xFFFFFFFF, fun _ => .keyclr⟩
  , ⟨"KEYBYTE",  0x00000019, 0xFFFF00FF, .keybyte⟩
  , ⟨"HMAC",     0x00000020, 0xFFFFFFFF, fun _ => .hmac⟩
  , ⟨"HOTP",     0x00000021, 0xFFFFFFFF, fun _ => .hotp⟩
  , ⟨"TRUNC",    0x00000030, 0xFFFFFFFF, fun _ => .trunc⟩
  , ⟨"MOD",      0x00000031, 0xFFFFFFFF, fun _ => .mod⟩ ]

/-- "A word w is command X when (w and mask(X)) = match(X)" (R303). -/
def Row.covers (r : Row) (w : Word) : Bool := w &&& r.mask == r.value

/-- `Legal(w)`: "true exactly when w matches a row" (R305). -/
def legal (w : Word) : Bool := rows.any (·.covers w)

/-- Why a word is no command: the three ways of R305, named in its order. -/
inductive DecodeRefusal where
  /-- the OP value is not in the table -/
  | unlistedOp
  /-- a listed OP with a non-zero bit in ZERO -/
  | zeroFieldSet
  /-- a listed OP other than B32CHAR and KEYBYTE with a non-zero IMM8 -/
  | immNotZero
deriving DecidableEq, Repr

/-- The name of the refusal of a word that matches no row (R305). -/
def refusalOf (w : Word) : DecodeRefusal :=
  if rows.all (fun r => opField r.value != opField w) then .unlistedOp
  else if zeroField w != 0 then .zeroFieldSet
  else .immNotZero

/-- The decoder (R303, R305): total, it refuses every unlisted word by name. "A decoder always reads exactly one
word" (R300). -/
def decode (w : Word) : Except DecodeRefusal Instr :=
  match rows.find? (·.covers w) with
  | some r => .ok (r.build (imm8Field w))
  | none => .error (refusalOf w)

/-- A byte placed in IMM8, bits 15:8. -/
def immBits (b : Byte) : Word := b.setWidth 32 <<< 8

/-- The word of a command: its match value of R303, with IMM8 = the operand. -/
def encode : Instr → Word
  | .nop => 0x00000000
  | .srst => 0x00000001
  | .clrerr => 0x00000002
  | .b32begin => 0x00000010
  | .b32char c => 0x00000011 ||| immBits c
  | .b32end => 0x00000012
  | .keyclr => 0x00000018
  | .keybyte b => 0x00000019 ||| immBits b
  | .hmac => 0x00000020
  | .hotp => 0x00000021
  | .trunc => 0x00000030
  | .mod => 0x00000031

/-- The command word whose bits are `w`, `nbits` of them given; the bits above `nbits` are 0. A command is one
32-bit word (R300), moved whole over the bus, so no byte order arises (20_memory.md R202); log entry 14. -/
def tableWord (nbits w : Nat) : Word := BitVec.ofNat 32 (w % 2 ^ nbits)

/-- What the decoder reads from an instruction of the opcode table whose bits are `w`. An instruction of more than
32 bits does not exist (R300). -/
def decodeTableWord (nbits w : Nat) : Option Instr :=
  if nbits ≤ 32 then (decode (tableWord nbits w)).toOption else none

end Sys2Proof
end

