-- ==== Sys2Proof/Config.lean ====
section
/-! DEFINITION. What the hardware fixes (00_scope.md R8) and the free values the spec leaves open. -/

namespace Sys2Proof.Config

/-- KEY_MAX: the key buffer holds 64 bytes (R8, D6). -/
def keyMax : Nat := 64

/-- SHA1_BLOCK_BYTES (R8, G1). -/
def sha1BlockBytes : Nat := 64

/-- DIGITS, hard-coded (R8). -/
def digits : Nat := 6

/-- MODULUS = 10^6 (R8). -/
def modulus : Nat := 10 ^ digits

/-- HOTP_MASK (R8). -/
def hotpMask : Word := 0x7FFFFFFF

/-- OFFSET_MASK (R8). -/
def offsetMask : Byte := 0x0F

/-- ID_VALUE, ASCII "T2FA" (R8, R113). -/
def idValue : Word := 0x54324641

/-- The word of a free value: use number `n`, slot `slot`. It has no body, so nothing can be proved of its value.
It stands for what the spec calls unspecified: the hidden SHA-1 and modulo registers between commands
(10_state.md R116) and the read data of a reset cycle (20_memory.md R211). Log entries 3 and 7. -/
opaque freeWord : (n slot : Nat) → Word

end Sys2Proof.Config
end

