-- ==== Sys2Proof/Machine/State.lean ====
section
/-! DEFINITION. The machine's state as plain data, the reasons it can stop, and the state after reset
(10_state.md R101 to R116, 70_reset_and_hazards.md R900). -/

namespace Sys2Proof.Machine

/-- The values of STATUS.B32ST (10_state.md R105). Values 5 to 7 are "never produced", so the type leaves them out
(93_implementation_defined.md U6). -/
inductive DecoderState where
  /-- 0: no decode session open -/
  | idle
  /-- 1: session open, no padding character seen -/
  | data
  /-- 2: session open, inside the padding of the final quantum -/
  | pad
  /-- 3: session open, padded final quantum complete -/
  | full
  /-- 4: session open, a decode error occurred -/
  | error
deriving DecidableEq, Repr

/-- The codes of STATUS.ERR (60_exceptions.md R801). Codes 8 to 15 are "never produced" (U6). -/
inductive ErrCode where
  /-- 0: no error since the last clear -/
  | none
  /-- 1: B32_CHAR -/
  | b32Char
  /-- 2: B32_PAD -/
  | b32Pad
  /-- 3: B32_LEN -/
  | b32Len
  /-- 4: KEY_OVF -/
  | keyOvf
  /-- 5: NO_KEY -/
  | noKey
  /-- 6: SEQ -/
  | seq
  /-- 7: ILLEGAL_CMD -/
  | illegalCmd
deriving DecidableEq, Repr

/-- Five 32-bit words: a SHA-1 chaining value H0..H4 and the digest registers MAC0..MAC4 (R112, R116). -/
structure Digest where
  h0 : Word
  h1 : Word
  h2 : Word
  h3 : Word
  h4 : Word
deriving DecidableEq, Repr

/-- The SHA-1 working words A, B, C, D, E (R116). -/
structure Working where
  a : Word
  b : Word
  c : Word
  d : Word
  e : Word
deriving DecidableEq, Repr

/-- Sixteen words: a 64-byte block M_0..M_15, the schedule W[0..15] (42_hmac_sha1.md R504, R508). -/
abbrev Block := Vector Word 16

/-- The hidden registers of the SHA-1 round processor (R116), private to one command. -/
structure ShaUnit where
  /-- A..E -/
  work : Working
  /-- H0..H4 -/
  h : Digest
  /-- W[0..15] -/
  w : Block
  /-- round counter -/
  t : BitVec 7
  /-- compression 0..3 of the HMAC sequence -/
  phase : BitVec 2
  /-- inner digest IH0..IH4 -/
  ih : Digest
deriving DecidableEq, Repr

/-- The hidden registers of the modulo unit (R116), private to one command. -/
structure ModUnit where
  /-- the remainder, 21 bits -/
  rem : BitVec 21
  /-- the step count, 6 bits -/
  steps : BitVec 6
deriving DecidableEq, Repr

/-- Byte storage: (index, byte) cells, indices strictly rising, no cell equal to what an unlisted index reads as.
It holds the key buffer KEY[0..63] (R115), the block's only byte storage. -/
abbrev Memory := List Host.Cell

/-- A bus transaction presented by the host (00_scope.md R7, 20_memory.md R209). -/
inductive BusTx where
  | read (addr : BitVec 8)
  | write (addr : BitVec 8) (data : Word)
deriving DecidableEq, Repr

/-- Who acts in a step (00_scope.md R6, 20_memory.md R212, 70_reset_and_hazards.md R901). -/
inductive Turn where
  /-- a host step: one bus transaction -/
  | host (tx : BusTx)
  /-- the sequencer's turn: the completion of the pending command, if there is one -/
  | sequencer
  /-- a cycle with rst = 1, in which the host may present a transaction -/
  | rst (tx : Option BusTx)
deriving DecidableEq, Repr

/-- What the bus answered in the last step: the outputs bus_rdata and bus_err (R7, R209). -/
inductive BusResponse where
  /-- no transaction in the last step -/
  | none
  /-- bus_rdata and bus_err of a read -/
  | readData (data : Word) (err : Bool)
  /-- bus_err of a write -/
  | written (err : Bool)
deriving DecidableEq, Repr

/-- The state of the block, and the model's own three last fields. -/
structure State where
  /-- STATUS.BUSY (R103) -/
  busy : Bool
  /-- STATUS.KEY_VALID (R103) -/
  keyValid : Bool
  /-- STATUS.OVR (R103) -/
  ovr : Bool
  /-- STATUS.B32ST (R103, R105) -/
  b32st : DecoderState
  /-- STATUS.ERR (R103, R801) -/
  err : ErrCode
  /-- STATUS.B32POS (R103) -/
  b32pos : BitVec 3
  /-- CTR_LO (R107) -/
  ctrLo : Word
  /-- CTR_HI (R107) -/
  ctrHi : Word
  /-- HOTP_VAL (R108) -/
  hotpVal : Word
  /-- CODE (R109) -/
  code : Word
  /-- CODE_BCD (R110) -/
  codeBcd : Word
  /-- KEY_LEN, bits 6:0 (R111) -/
  keyLen : BitVec 7
  /-- MAC0..MAC4 (R112) -/
  mac : Digest
  /-- the key buffer KEY[0..63] (R115) -/
  key : Memory
  /-- PEND, the pending command word (R116) -/
  pend : Word
  /-- ACC, the shifter's bits (R116) -/
  acc : BitVec 12
  /-- NBITS, how many bits ACC holds (R116) -/
  nbits : BitVec 3
  /-- hidden SHA-1 registers (R116) -/
  sha : ShaUnit
  /-- hidden modulo registers (R116) -/
  modu : ModUnit
  /-- the model's own: the turns still to come (log entry 5) -/
  script : List Turn
  /-- the model's own: the bus response of the last step (log entry 8) -/
  resp : BusResponse
  /-- the model's own: which free value is used next (log entry 4) -/
  freeCount : Nat
deriving DecidableEq, Repr

/-- Why the machine stops. -/
inductive Fault where
  /-- Raised by `complete` when PEND matches no row of R303: R355 gives such a completion no rule. An illegal word
  is never made pending (R350), so no run from reset raises it. Safe: the model stops (log entry 9). -/
  | pendMatchesNoRow
deriving DecidableEq, Repr

/-- Why an instruction has no meaning. -/
inductive Refusal where
  /-- Raised by an arm of `exec` whose instruction has no meaning yet; no arm does so now. Safe. -/
  | notModelled (mnemonic : String)
deriving DecidableEq, Repr

/-- Five zero words. -/
def Digest.zero : Digest := ⟨0, 0, 0, 0, 0⟩

/-- The SHA-1 registers at reset. R900 leaves them unspecified; the zeros are log entry 2. -/
def ShaUnit.reset : ShaUnit :=
  { work := ⟨0, 0, 0, 0, 0⟩, h := Digest.zero, w := #v[0, 0, 0, 0, 0, 0, 0, 0, 0, 0, 0, 0, 0, 0, 0, 0],
    t := 0, phase := 0, ih := Digest.zero }

/-- The modulo registers at reset. R900 leaves them unspecified; the zeros are log entry 2. -/
def ModUnit.reset : ModUnit := { rem := 0, steps := 0 }

/-- The machine right after reset (70_reset_and_hazards.md R900), with no turn scheduled. -/
def State.reset : State :=
  { busy := false, keyValid := false, ovr := false, b32st := .idle, err := .none, b32pos := 0,
    ctrLo := 0, ctrHi := 0, hotpVal := 0, code := 0, codeBcd := 0, keyLen := 0,
    mac := Digest.zero, key := [], pend := 0, acc := 0, nbits := 0,
    sha := ShaUnit.reset, modu := ModUnit.reset,
    script := [], resp := .none, freeCount := 0 }

end Sys2Proof.Machine
end

