-- ==== Sys2Proof/Machine/Operands.lean ====
section
/-! DEFINITION. Byte order, word helpers and the operands the commands read: the key buffer, its words, the counter
and the digest bytes (00_scope.md R9, R10; 10_state.md R107, R112, R114; 20_memory.md R203). -/

namespace Sys2Proof.Machine

/-- `rol32(x, n)` of R9, for 0 < n < 32. -/
def rol32 (x : Word) (n : Nat) : Word := (x <<< n) ||| (x >>> (32 - n))

/-- `BE32` of four bytes, the first most significant (R10). -/
def be32 (b0 b1 b2 b3 : Byte) : Word :=
  (b0.setWidth 32 <<< 24) ||| (b1.setWidth 32 <<< 16) ||| (b2.setWidth 32 <<< 8) ||| b3.setWidth 32

/-- `BE32(s[i..i+4])` (R10); an index outside `s` does not occur and would read 0. -/
def be32At (s : List Byte) (i : Nat) : Word :=
  be32 (s.getD i 0) (s.getD (i + 1) 0) (s.getD (i + 2) 0) (s.getD (i + 3) 0)

/-- `bytes_of_word(w)`: bits 31:24, 23:16, 15:8, 7:0 (R10). -/
def bytesOfWord (w : Word) : List Byte :=
  [w.extractLsb' 24 8, w.extractLsb' 16 8, w.extractLsb' 8 8, w.extractLsb' 0 8]

/-- `BE64(c)`: the 8 bytes of a 64-bit value, most significant first (R10): byte i is bits 63-8i down to 56-8i
(R203). -/
def be64 (c : BitVec 64) : List Byte := (List.range 8).map fun i => c.extractLsb' (56 - 8 * i) 8

/-- The 20 bytes of a digest: byte 4i+j is bits 31-8j down to 24-8j of word i (R112). -/
def Digest.bytes (d : Digest) : List Byte :=
  bytesOfWord d.h0 ++ bytesOfWord d.h1 ++ bytesOfWord d.h2 ++ bytesOfWord d.h3 ++ bytesOfWord d.h4

/-- The digest whose 20 bytes are `s`: MACi is `BE32(mac[4i .. 4i+4])` (R535). -/
def Digest.ofBytes (s : List Byte) : Digest :=
  ⟨be32At s 0, be32At s 4, be32At s 8, be32At s 12, be32At s 16⟩

/-- Word i of a digest, i = 0..4. -/
def Digest.word (d : Digest) : Fin 5 → Word
  | 0 => d.h0
  | 1 => d.h1
  | 2 => d.h2
  | 3 => d.h3
  | 4 => d.h4

/-- A digest with word i replaced. -/
def Digest.setWord (d : Digest) (i : Fin 5) (v : Word) : Digest :=
  match i with
  | 0 => { d with h0 := v }
  | 1 => { d with h1 := v }
  | 2 => { d with h2 := v }
  | 3 => { d with h3 := v }
  | 4 => { d with h4 := v }

/-- Sixteen words given by their index. -/
def blockOf (f : Nat → Word) : Block :=
  #v[f 0, f 1, f 2, f 3, f 4, f 5, f 6, f 7, f 8, f 9, f 10, f 11, f 12, f 13, f 14, f 15]

/-! ### Byte storage -/

/-- What an unlisted byte reads as: 0, the reset value of every KEY byte (70_reset_and_hazards.md R900). -/
def Memory.unlisted : Byte := 0

/-- Read of one byte: KEY[i] (R11). -/
def Memory.read : Memory → Nat → Byte
  | [], _ => Memory.unlisted
  | (k, b) :: rest, a => if k = a then b else Memory.read rest a

/-- A new cell in front of `rest`, none when its byte is what an unlisted byte reads as. -/
def Memory.cons (a : Nat) (b : Byte) (rest : Memory) : Memory :=
  if b = Memory.unlisted then rest else (a, b) :: rest

/-- Write of one byte: KEY[i] <- b (R11), in the canonical form. -/
def Memory.write : Memory → Nat → Byte → Memory
  | [], a, b => Memory.cons a b []
  | (k, c) :: rest, a, b =>
    if a < k then Memory.cons a b ((k, c) :: rest)
    else if a = k then Memory.cons a b rest
    else (k, c) :: Memory.write rest a b

/-- The canonical form from index `lo` on: indices rise strictly, lie inside the key buffer, and no cell holds what
an unlisted byte reads as. -/
def Memory.wfFrom : Nat → Memory → Bool
  | _, [] => true
  | lo, (k, b) :: rest => decide (lo ≤ k) && decide (k < Config.keyMax) && b != Memory.unlisted
      && Memory.wfFrom (k + 1) rest

/-- The canonical form of the byte storage. -/
def Memory.wf (m : Memory) : Bool := Memory.wfFrom 0 m

/-! ### Operands -/

/-- KEYWi, i = 0..15: KEY[4i] || KEY[4i+1] || KEY[4i+2] || KEY[4i+3] (R114). -/
def keyWord (s : State) (i : Nat) : Word :=
  be32 (s.key.read (4 * i)) (s.key.read (4 * i + 1)) (s.key.read (4 * i + 2)) (s.key.read (4 * i + 3))

/-- The sixteen words KEYW0..KEYW15 (R530). -/
def keyBlock (s : State) : Block := blockOf (keyWord s)

/-- The key, `KEY[0..KEY_LEN]` (R115). -/
def keyBytes (s : State) : List Byte := (List.range s.keyLen.toNat).map s.key.read

/-- `COUNTER = CTR_HI || CTR_LO` (R107). -/
def counter (s : State) : BitVec 64 := s.ctrHi ++ s.ctrLo

end Sys2Proof.Machine
end

