-- ==== Sys2Proof/Machine/Flags.lean ====
section
/-! DEFINITION. The STATUS register: the codes of its fields and the word a read returns (10_state.md R103, R105;
60_exceptions.md R801). There are no condition codes (R106). -/

namespace Sys2Proof.Machine

/-- The 3-bit value of STATUS.B32ST (R105). -/
def DecoderState.code : DecoderState → BitVec 3
  | .idle => 0
  | .data => 1
  | .pad => 2
  | .full => 3
  | .error => 4

/-- The 4-bit code of STATUS.ERR (R801). -/
def ErrCode.code : ErrCode → BitVec 4
  | .none => 0
  | .b32Char => 1
  | .b32Pad => 2
  | .b32Len => 3
  | .keyOvf => 4
  | .noKey => 5
  | .seq => 6
  | .illegalCmd => 7

/-- The word a read of STATUS returns (R103): BUSY bit 0, KEY_VALID bit 1, OVR bit 2, B32ST bits 6:4, ERR bits 11:8,
B32POS bits 14:12, reserved bits 3, 7 and 31:15 zero. -/
def statusWord (s : State) : Word :=
  (0 : BitVec 17) ++ s.b32pos ++ s.err.code ++ (0 : BitVec 1) ++ s.b32st.code ++ (0 : BitVec 1)
    ++ BitVec.ofBool s.ovr ++ BitVec.ofBool s.keyValid ++ BitVec.ofBool s.busy

/-- The output port busy, a copy of STATUS.BUSY (00_scope.md R7). -/
def State.busyPort (s : State) : Bool := s.busy

end Sys2Proof.Machine
end

