-- ==== Sys2Proof/Machine/Ops.lean ====
section
/-! DEFINITION. The named operations over the state that the commands and the bus share: the error latch, the key
buffer, reset, issue and completion of a command, and the free values. -/

namespace Sys2Proof.Machine

/-- What the machine answers with: a next state, a fault or a refusal. -/
abbrev Result := Host.Outcome State Fault Refusal

/-- A change made to the next state, if there is one. -/
def mapNext (f : State → State) : Result → Result
  | .next s => .next (f s)
  | .fault r => .fault r
  | .refused r => .refused r

/-- The next state, if there is one. -/
def nextOf : Result → Option State
  | .next s => some s
  | .fault _ => none
  | .refused _ => none

/-! ### Errors: the block's only exceptions -/

/-- `raise Error(code)`, the error latch (60_exceptions.md R810): the block's whole exception entry. "Nothing is saved,
no mode changes, no mask changes and control goes nowhere" (R811). -/
def raiseError (s : State) (c : ErrCode) : State :=
  { s with err := if s.err = .none then c else s.err }

/-- The "return" (R811): CLRERR's clear of ERR and OVR (44_control.md R710). -/
def clearErrors (s : State) : State := { s with err := .none, ovr := false }

/-- A host write dropped because BUSY = 1 sets OVR and nothing else (20_memory.md R206, R812). -/
def setOvr (s : State) : State := { s with ovr := true }

/-! ### Key buffer -/

/-- KEY[0..63] <- 0; KEY_LEN <- 0 (41_base32.md R410, R440). -/
def clearKey (s : State) : State := { s with key := [], keyLen := 0 }

/-- KEY[KEY_LEN] <- b; KEY_LEN <- KEY_LEN + 1 (R422). -/
def storeKeyByte (s : State) (b : Byte) : State :=
  { s with key := s.key.write s.keyLen.toNat b, keyLen := s.keyLen + 1 }

/-- `Append(b)` (R422), none for FAIL, which changes nothing. KEY_LEN never exceeds 64 (10_state.md R117), so "= 64" is
written as "not below 64" (log entry 11). -/
def append (s : State) (b : Byte) : Option State :=
  if s.keyLen.toNat < Config.keyMax then some (storeKeyByte s b) else none

/-- STATUS.KEY_VALID <- v. -/
def setKeyValid (s : State) (v : Bool) : State := { s with keyValid := v }

/-! ### Decoder -/

/-- STATUS.B32ST <- st. -/
def setDecoder (s : State) (st : DecoderState) : State := { s with b32st := st }

/-- STATUS.B32POS <- (p + 1) mod 8, where p is its value. -/
def advancePos (s : State) : State := { s with b32pos := s.b32pos + 1 }

/-- ACC <- a; NBITS <- n. -/
def setShifter (s : State) (a : BitVec 12) (n : BitVec 3) : State := { s with acc := a, nbits := n }

/-- ACC <- 0; NBITS <- 0; B32POS <- 0; B32ST <- st: how a session is opened or left (R410, R430, R440). -/
def restartDecoder (s : State) (st : DecoderState) : State :=
  { s with acc := 0, nbits := 0, b32pos := 0, b32st := st }

/-! ### Results -/

/-- MAC0..MAC4 <- d. -/
def setMac (s : State) (d : Digest) : State := { s with mac := d }

/-- HOTP_VAL <- v. -/
def setHotpVal (s : State) (v : Word) : State := { s with hotpVal := v }

/-- CODE <- c; CODE_BCD <- b, always together (10_state.md R110). -/
def setCode (s : State) (c b : Word) : State := { s with code := c, codeBcd := b }

/-! ### Free values -/

/-- A free content of the SHA-1 registers (10_state.md R116: "their values between commands are unspecified"). -/
def freeSha (n : Nat) : ShaUnit :=
  let f := Config.freeWord n
  { work := ⟨f 0, f 1, f 2, f 3, f 4⟩, h := ⟨f 5, f 6, f 7, f 8, f 9⟩,
    w := blockOf fun j => f (10 + j), t := (f 26).setWidth 7, phase := (f 27).setWidth 2,
    ih := ⟨f 28, f 29, f 30, f 31, f 32⟩ }

/-- A free content of the modulo registers (R116). -/
def freeModu (n : Nat) : ModUnit :=
  { rem := (Config.freeWord n 33).setWidth 21, steps := (Config.freeWord n 34).setWidth 6 }

/-- Free read data of a transaction in a reset cycle (20_memory.md R211). -/
def freeReadData (n : Nat) : Word := Config.freeWord n 35

/-- After a command that used the SHA-1 unit its registers hold unspecified values. -/
def releaseSha (s : State) : State := { s with sha := freeSha s.freeCount, freeCount := s.freeCount + 1 }

/-- After a command that used the modulo unit its registers hold unspecified values. -/
def releaseModu (s : State) : State := { s with modu := freeModu s.freeCount, freeCount := s.freeCount + 1 }

/-! ### Reset, issue, completion, bus response -/

/-- `Reset()` (70_reset_and_hazards.md R900): every piece of the block's state to its reset value. The turns to come,
the bus response and the free-value counter are the model's own and stay (log entry 4). -/
def applyReset (s : State) : State :=
  { State.reset with script := s.script, resp := s.resp, freeCount := s.freeCount }

/-- PEND <- v; STATUS.BUSY <- 1 (40_command_issue.md R350). -/
def accept (s : State) (v : Word) : State := { s with pend := v, busy := true }

/-- STATUS.BUSY <- 0 (R355). -/
def finish (s : State) : State := { s with busy := false }

/-- The bus response of this step. -/
def respond (s : State) (r : BusResponse) : State := { s with resp := r }

/-- The turns still to come. -/
def setScript (s : State) (ts : List Turn) : State := { s with script := ts }

/-- One free value used. -/
def bumpFree (s : State) : State := { s with freeCount := s.freeCount + 1 }

end Sys2Proof.Machine
end

