-- ==== Sys2Proof/Machine/Base32.lean ====
section
/-! DEFINITION. The Base32 decoder and the raw key commands: B32BEGIN, B32CHAR, B32END, KEYCLR, KEYBYTE
(41_base32.md). -/

namespace Sys2Proof.Machine

/-- The class of a character and the value of class VALUE (R401). -/
inductive CharClass where
  | value (v : BitVec 5)
  | pad
  | invalid
deriving DecidableEq, Repr

/-- The lookup table `LUT(c)` (R401). -/
def lut (c : Byte) : CharClass :=
  if 0x41 ≤ c.toNat ∧ c.toNat ≤ 0x5A then .value (BitVec.ofNat 5 (c.toNat - 0x41))
  else if 0x32 ≤ c.toNat ∧ c.toNat ≤ 0x37 then .value (BitVec.ofNat 5 (c.toNat - 0x32 + 26))
  else if c.toNat = 0x3D then .pad
  else .invalid

/-- `PadLegal(p)`: p is 2, 4, 5 or 7 (R402). -/
def padLegal (p : BitVec 3) : Bool := p == 2 || p == 4 || p == 5 || p == 7

/-- What `Shift` returns: ACC, NBITS, and the byte when one is emitted (R421). -/
structure Shifted where
  acc : BitVec 12
  nbits : BitVec 3
  byte : Option Byte
deriving DecidableEq, Repr

/-- The shifter `Shift(acc, nb, v)` (R421): bits enter at the least significant end and leave, 8 at a time, from the
most significant end. It expects acc < 2^nb, which R117 (e) gives (log entry 13). -/
def shift (acc : BitVec 12) (nb : BitVec 3) (v : BitVec 5) : Shifted :=
  let a : BitVec 12 := (acc <<< 5) ||| v.setWidth 12
  let n := nb.toNat + 5
  if 8 ≤ n then
    { acc := BitVec.ofNat 12 (a.toNat % 2 ^ (n - 8)), nbits := BitVec.ofNat 3 (n - 8),
      byte := some (a.extractLsb' (n - 8) 8) }
  else { acc := a, nbits := BitVec.ofNat 3 n, byte := none }

/-- raise Error(code); STATUS.B32ST <- ERROR: all a failing character changes (R420, D26). -/
def failChar (s : State) (c : ErrCode) : State := setDecoder (raiseError s c) .error

/-- A data character in state DATA (R420): shift, append the completed byte, move on. -/
def dataChar (s : State) (v : BitVec 5) : State :=
  let r := shift s.acc s.nbits v
  match r.byte with
  | none => advancePos (setShifter s r.acc r.nbits)
  | some b =>
    match append s b with
    | none => failChar s .keyOvf
    | some s' => advancePos (setShifter s' r.acc r.nbits)

/-- '=' in state DATA (R420). -/
def firstPad (s : State) : State :=
  if padLegal s.b32pos then setDecoder (advancePos s) (if s.b32pos = 7 then .full else .pad)
  else failChar s .b32Pad

/-- '=' in state PAD (R420). -/
def nextPad (s : State) : State :=
  if s.b32pos = 7 then setDecoder (advancePos s) .full else advancePos s

/-- The effect of B32CHAR (R420), in the order of its pseudocode. -/
def decodeChar (s : State) (c : Byte) : State :=
  if s.b32st = .idle then raiseError s .seq
  else if s.b32st = .error then s
  else
    match lut c with
    | .invalid => failChar s .b32Char
    | .value v => if s.b32st = .data then dataChar s v else failChar s .b32Pad
    | .pad =>
      if s.b32st = .data then firstPad s
      else if s.b32st = .pad then nextPad s
      else failChar s .b32Pad

/-- The verdict of B32END on an open session (R430): KEY_VALID or the error, before the session is closed. -/
def sessionVerdict (s : State) : State :=
  match s.b32st with
  | .idle => s
  | .error => s
  | .data => if s.b32pos = 0 then setKeyValid s true else raiseError s .b32Len
  | .pad => raiseError s .b32Len
  | .full => setKeyValid s true

/-- The effect of B32END (R430). -/
def endSession (s : State) : State :=
  if s.b32st = .idle then raiseError s .seq else restartDecoder (sessionVerdict s) .idle

/-- The effect of KEYBYTE (R441). -/
def rawKeyByte (s : State) (b : Byte) : State :=
  if s.b32st ≠ .idle ∨ s.keyValid = false then raiseError s .seq
  else
    match append s b with
    | none => setKeyValid (raiseError s .keyOvf) false
    | some s' => s'

/-- B32BEGIN (R410): empty key, KEY_VALID <- 0, a fresh session; legal in every decoder state. -/
def execB32begin (s : State) : Result := .next (restartDecoder (setKeyValid (clearKey s) false) .data)

/-- B32CHAR c (R420). -/
def execB32char (c : Byte) (s : State) : Result := .next (decodeChar s c)

/-- B32END (R430). -/
def execB32end (s : State) : Result := .next (endSession s)

/-- KEYCLR (R440): the empty key is a valid key; any open session is abandoned. -/
def execKeyclr (s : State) : Result := .next (restartDecoder (setKeyValid (clearKey s) true) .idle)

/-- KEYBYTE b (R441). -/
def execKeybyte (b : Byte) (s : State) : Result := .next (rawKeyByte s b)

end Sys2Proof.Machine
end

