-- ==== Sys2Proof/Machine/Control.lean ====
section
/-! DEFINITION. The control commands NOP, SRST and CLRERR (44_control.md). -/

namespace Sys2Proof.Machine

/-- NOP (R700): skip. -/
def execNop (s : State) : Result := .next s

/-- SRST (R705, 70_reset_and_hazards.md R902): Reset(), performed at its issue. -/
def execSrst (s : State) : Result := .next (applyReset s)

/-- CLRERR (R710): STATUS.ERR <- 0, STATUS.OVR <- 0. -/
def execClrerr (s : State) : Result := .next (clearErrors s)

end Sys2Proof.Machine
end

