-- ==== Sys2Proof/Machine/Sha1.lean ====
section
/-! DEFINITION. SHA-1 and HMAC-SHA1 in their mathematical form (42_hmac_sha1.md sections 1 and 2), the reference the
round processor is held to. -/

namespace Sys2Proof.Machine

/-- The initial chaining value IV (R500). -/
def sha1Iv : Digest := ⟨0x67452301, 0xEFCDAB89, 0x98BADCFE, 0x10325476, 0xC3D2E1F0⟩

/-- The round constant K_t (R501). -/
def sha1K (t : Nat) : Word :=
  if t ≤ 19 then 0x5A827999 else if t ≤ 39 then 0x6ED9EBA1 else if t ≤ 59 then 0x8F1BBCDC else 0xCA62C1D6

/-- Ch (R502). -/
def ch (b c d : Word) : Word := (b &&& c) ||| (~~~b &&& d)

/-- Parity (R502). -/
def parity (b c d : Word) : Word := b ^^^ c ^^^ d

/-- Maj (R502). -/
def maj (b c d : Word) : Word := (b &&& c) ||| (b &&& d) ||| (c &&& d)

/-- The round function f_t (R502). -/
def sha1F (t : Nat) (b c d : Word) : Word :=
  if t ≤ 19 then ch b c d else if t ≤ 39 then parity b c d else if t ≤ 59 then maj b c d else parity b c d

/-- The word W_t of the schedule of block `m` (R505). -/
def schedule (m : Block) : Nat → Word
  | n + 16 => rol32 (schedule m (n + 13) ^^^ schedule m (n + 8) ^^^ schedule m (n + 2) ^^^ schedule m n) 1
  | t => m[t % 16]'(Nat.mod_lt _ (by decide))

/-- Round t on the working words (R505), with the schedule word `wt`; every addition is mod 2^32 (R507). -/
def sha1Round (t : Nat) (wt : Word) (v : Working) : Working :=
  { a := rol32 v.a 5 + sha1F t v.b v.c v.d + v.e + sha1K t + wt,
    b := v.a, c := rol32 v.b 30, d := v.c, e := v.d }

/-- (A, B, C, D, E) <- (H0, H1, H2, H3, H4) (R505). -/
def Working.ofDigest (h : Digest) : Working := ⟨h.h0, h.h1, h.h2, h.h3, h.h4⟩

/-- The final addition (R505, R512). -/
def addWorking (h : Digest) (v : Working) : Digest :=
  ⟨h.h0 + v.a, h.h1 + v.b, h.h2 + v.c, h.h3 + v.d, h.h4 + v.e⟩

/-- Rounds 0 to n-1 of block `m` (R505). -/
def sha1Rounds (m : Block) : Nat → Working → Working
  | 0, v => v
  | n + 1, v => sha1Round n (schedule m n) (sha1Rounds m n v)

/-- `Compress(H, b)` for the block of words `m` (R505). -/
def sha1Compress (h : Digest) (m : Block) : Digest := addWorking h (sha1Rounds m 80 (Working.ofDigest h))

/-- `Pad(M)` (R503): k is the least non-negative integer with (L + 1 + k) mod 64 = 56. -/
def sha1Pad (msg : List Byte) : List Byte :=
  msg ++ 0x80 :: (List.replicate ((119 - msg.length % 64) % 64) 0 ++ be64 (BitVec.ofNat 64 (8 * msg.length)))

/-- The block of 64 bytes that starts at byte `i`: M_j = BE32(b[4j .. 4j+4]) (R504). -/
def blockAt (s : List Byte) (i : Nat) : Block := blockOf fun j => be32At s (i + 4 * j)

/-- `SHA1(M)` (R506): Compress over the blocks of Pad(M), in order, from IV. -/
def sha1 (msg : List Byte) : Digest :=
  (List.range ((sha1Pad msg).length / Config.sha1BlockBytes)).foldl
    (fun h i => sha1Compress h (blockAt (sha1Pad msg) (Config.sha1BlockBytes * i))) sha1Iv

/-- K0: the key followed by zeros, 64 bytes (R520). -/
def hmacK0 (k : List Byte) : List Byte := k ++ List.replicate (Config.sha1BlockBytes - k.length) 0

/-- Every byte of K0 xor a pad byte (R520). -/
def xorPad (k : List Byte) (p : Byte) : List Byte := (hmacK0 k).map (· ^^^ p)

/-- `HMAC_SHA1(K, m)` for a key of at most 64 bytes (R520). -/
def hmacSha1 (k msg : List Byte) : Digest :=
  sha1 (xorPad k 0x5C ++ (sha1 (xorPad k 0x36 ++ msg)).bytes)

end Sys2Proof.Machine
end

