-- ==== Sys2Proof/Machine/Hmac.lean ====
section
/-! DEFINITION. The HMAC-SHA1 core as the hardware sequences it: the round processor, the circular schedule, the keyed
blocks and the four phases (42_hmac_sha1.md section 3), and the command HMAC. -/

namespace Sys2Proof.Machine

/-- The index of a word of the circular schedule. -/
def slot (i : Nat) : Fin 16 := ⟨i % 16, Nat.mod_lt _ (by decide)⟩

/-- The schedule buffer as round t uses it (R508): for t ≥ 16 the word W[t mod 16] is first replaced. -/
def advanceSchedule (t : Nat) (w : Block) : Block :=
  if 16 ≤ t then
    w.set (slot t) (rol32 (w[slot (t + 13)] ^^^ w[slot (t + 8)] ^^^ w[slot (t + 2)] ^^^ w[slot t]) 1)
  else w

/-- f_t selected by t div 20 (R510). -/
def selectF (q : Nat) (b c d : Word) : Word :=
  match q with
  | 0 => ch b c d
  | 1 => parity b c d
  | 2 => maj b c d
  | _ => parity b c d

/-- K_t selected by t div 20 (R510). -/
def selectK (q : Nat) : Word :=
  match q with
  | 0 => 0x5A827999
  | 1 => 0x6ED9EBA1
  | 2 => 0x8F1BBCDC
  | _ => 0xCA62C1D6

/-- One round cycle (R508, R510). -/
def ShaUnit.round (u : ShaUnit) : ShaUnit :=
  let t := u.t.toNat
  let w := advanceSchedule t u.w
  let v := u.work
  { u with
    w := w
    work := { a := rol32 v.a 5 + selectF (t / 20) v.b v.c v.d + v.e + selectK (t / 20) + w[slot t],
              b := v.a, c := rol32 v.b 30, d := v.c, e := v.d }
    t := u.t + 1 }

/-- n round cycles. -/
def ShaUnit.rounds : Nat → ShaUnit → ShaUnit
  | 0, u => u
  | n + 1, u => ShaUnit.rounds n u.round

/-- The load cycle (R511): W[j] <- M_j, (A..E) <- (H0..H4), t <- 0. -/
def ShaUnit.load (u : ShaUnit) (m : Block) : ShaUnit :=
  { u with w := m, work := Working.ofDigest u.h, t := 0 }

/-- The final addition (R512). -/
def ShaUnit.finalAdd (u : ShaUnit) : ShaUnit := { u with h := addWorking u.h u.work }

/-- One compression of block `m` from the chaining words H (R511): load, 80 rounds, final addition. -/
def ShaUnit.compress (u : ShaUnit) (m : Block) : ShaUnit := ((u.load m).rounds 80).finalAdd

/-- The key block xor a constant word (R530). -/
def keyedBlock (kw : Block) (p : Word) : Block := blockOf fun j => kw[slot j] ^^^ p

/-- ipad block: M_j = KEYWj xor 0x36363636 (R530). -/
def ipadBlock (kw : Block) : Block := keyedBlock kw 0x36363636

/-- opad block: M_j = KEYWj xor 0x5C5C5C5C (R530). -/
def opadBlock (kw : Block) : Block := keyedBlock kw 0x5C5C5C5C

/-- The block of phase 1 (R531): the counter, the 0x80 byte and the length 576. -/
def counterBlock (hi lo : Word) : Block :=
  #v[hi, lo, 0x80000000, 0, 0, 0, 0, 0, 0, 0, 0, 0, 0, 0, 0, 0x00000240]

/-- The block of phase 3 (R531): the inner digest, the 0x80 byte and the length 672. -/
def innerBlock (d : Digest) : Block :=
  #v[d.h0, d.h1, d.h2, d.h3, d.h4, 0x80000000, 0, 0, 0, 0, 0, 0, 0, 0, 0, 0x000002A0]

/-- The start of a phase (R531): its number, and its chaining input, which is IV or the H already there. -/
def ShaUnit.startPhase (u : ShaUnit) (p : BitVec 2) (h : Digest) : ShaUnit := { u with phase := p, h := h }

/-- IH0..IH4 <- H (R531, phase 1). -/
def ShaUnit.keepInner (u : ShaUnit) : ShaUnit := { u with ih := u.h }

/-- Phase 0: from IV, the ipad block. -/
def ShaUnit.phase0 (kw : Block) (u : ShaUnit) : ShaUnit := (u.startPhase 0 sha1Iv).compress (ipadBlock kw)

/-- Phase 1: from H, the counter block; the result is the inner digest. -/
def ShaUnit.phase1 (hi lo : Word) (u : ShaUnit) : ShaUnit :=
  ((u.startPhase 1 u.h).compress (counterBlock hi lo)).keepInner

/-- Phase 2: from IV, the opad block. -/
def ShaUnit.phase2 (kw : Block) (u : ShaUnit) : ShaUnit := (u.startPhase 2 sha1Iv).compress (opadBlock kw)

/-- Phase 3: from H, the inner digest block; the result is the MAC. -/
def ShaUnit.phase3 (u : ShaUnit) : ShaUnit := (u.startPhase 3 u.h).compress (innerBlock u.ih)

/-- The HMAC sequence: phases 0 to 3 in this order (R531). -/
def ShaUnit.hmacSequence (u : ShaUnit) (kw : Block) (hi lo : Word) : ShaUnit :=
  (((u.phase0 kw).phase1 hi lo).phase2 kw).phase3

/-- The MAC the sequencer computes from the key buffer and the counter: H after phase 3 (R531). R535 writes it as
HMAC_SHA1(KEY[0..KEY_LEN], BE64(CTR_HI || CTR_LO)); the two agree where R117 (d) holds (log entry 12). -/
def keyedDigest (s : State) : Digest := (s.sha.hmacSequence (keyBlock s) s.ctrHi s.ctrLo).h

/-- HMAC (R535). -/
def execHmac (s : State) : Result :=
  if s.keyValid = false then .next (raiseError s .noKey)
  else .next (releaseSha (setMac s (keyedDigest s)))

end Sys2Proof.Machine
end

