-- ==== Sys2Proof/Machine/Truncate.lean ====
section
/-! DEFINITION. Dynamic truncation, decimal reduction and BCD, the modulo unit's datapath, and the commands TRUNC, MOD
and HOTP (43_truncate_modulo.md). -/

namespace Sys2Proof.Machine

/-- Dynamic truncation `DT(mac)` of a 20-byte digest (R601). -/
def dynTrunc (mac : List Byte) : Word :=
  be32At mac ((mac.getD 19 0 &&& Config.offsetMask).toNat) &&& Config.hotpMask

/-- `Reduce(x) = x mod 1,000,000` (R602). -/
def reduce (x : Word) : Nat := x.toNat % Config.modulus

/-- `BCD6(y)`, the sum over k = 0..5 of ((y div 10^k) mod 10) << 4k (R603). -/
def bcd6 (y : Nat) : Nat := ((List.range Config.digits).map fun k => (y / 10 ^ k % 10) <<< (4 * k)).sum

/-- CODE and CODE_BCD of a HOTP value (R610, R620). -/
def writeCode (s : State) (x : Word) : State :=
  setCode s (BitVec.ofNat 32 (reduce x)) (BitVec.ofNat 32 (bcd6 (reduce x)))

/-! ### The datapath of R612, informative there: the normative results are `reduce` and `bcd6` -/

/-- r <- 0. -/
def ModUnit.load (_u : ModUnit) : ModUnit := { rem := 0, steps := 0 }

/-- One remainder step with dividend bit `b`: r <- (r << 1) | b; if r >= 1000000: r <- r - 1000000. -/
def ModUnit.divideBit (u : ModUnit) (b : Bool) : ModUnit :=
  let r : BitVec 21 := (u.rem <<< 1) ||| (BitVec.ofBool b).setWidth 21
  { rem := if Config.modulus ≤ r.toNat then r - BitVec.ofNat 21 Config.modulus else r, steps := u.steps + 1 }

/-- The remainder loop over bits n-1 down to 0 of x. -/
def ModUnit.divide (x : Word) : Nat → ModUnit → ModUnit
  | 0, u => u
  | n + 1, u => ModUnit.divide x n (u.divideBit (x.getLsbD n))

/-- Add 3 to every BCD digit that is 5 or more ("double dabble"). -/
def dabbleAdjust (bcd : BitVec 24) : BitVec 24 :=
  ((List.range Config.digits).map fun k =>
    let d := bcd.toNat / 16 ^ k % 16
    BitVec.ofNat 24 ((if 5 ≤ d then d + 3 else d) <<< (4 * k))).foldl (· ||| ·) 0

/-- One conversion step: adjust, then shift in the next bit. -/
def dabbleBit (bcd : BitVec 24) (b : Bool) : BitVec 24 := (dabbleAdjust bcd <<< 1) ||| (BitVec.ofBool b).setWidth 24

/-- The conversion loop over bits n-1 down to 0 of the remainder. -/
def dabble (r : BitVec 21) : Nat → BitVec 24 → BitVec 24
  | 0, bcd => bcd
  | n + 1, bcd => dabble r n (dabbleBit bcd (r.getLsbD n))

/-- The whole datapath on x: the 32 remainder steps, then the 20 conversion steps of the 20-bit remainder. -/
def ModUnit.run (u : ModUnit) (x : Word) : ModUnit × BitVec 24 :=
  let v := ModUnit.divide x 32 u.load
  ({ v with steps := v.steps + 20 }, dabble v.rem 20 0)

/-! ### Commands -/

/-- TRUNC (R600): HOTP_VAL <- DT(MAC0..MAC4). -/
def execTrunc (s : State) : Result := .next (setHotpVal s (dynTrunc s.mac.bytes))

/-- MOD (R610): CODE and CODE_BCD <- the reduced HOTP_VAL. -/
def execMod (s : State) : Result := .next (releaseModu (writeCode s s.hotpVal))

/-- The result registers HOTP writes, from the keyed digest `d` (R620). -/
def writeHotp (s : State) (d : Digest) : State :=
  writeCode (setHotpVal (setMac s d) (dynTrunc d.bytes)) (dynTrunc d.bytes)

/-- HOTP (R620): keyed digest, truncation, reduction. -/
def execHotp (s : State) : Result :=
  if s.keyValid = false then .next (raiseError s .noKey)
  else .next (releaseModu (releaseSha (writeHotp s (keyedDigest s))))

end Sys2Proof.Machine
end

