-- ==== Sys2Proof/Machine/Dispatch.lean ====
section
/-! DEFINITION. `exec`: the effect `Execute(word)` of each command (40_command_issue.md, template). -/

namespace Sys2Proof.Machine

def exec (i : Instr) (s : State) : Host.Outcome State Fault Refusal :=
  match i with
  | .nop => Sys2Proof.Machine.execNop s
  | .srst => Sys2Proof.Machine.execSrst s
  | .clrerr => Sys2Proof.Machine.execClrerr s
  | .b32begin => Sys2Proof.Machine.execB32begin s
  | .b32char c => Sys2Proof.Machine.execB32char c s
  | .b32end => Sys2Proof.Machine.execB32end s
  | .keyclr => Sys2Proof.Machine.execKeyclr s
  | .keybyte b => Sys2Proof.Machine.execKeybyte b s
  | .hmac => Sys2Proof.Machine.execHmac s
  | .hotp => Sys2Proof.Machine.execHotp s
  | .trunc => Sys2Proof.Machine.execTrunc s
  | .mod => Sys2Proof.Machine.execMod s

end Sys2Proof.Machine
end

