-- ==== Sys2Proof/Machine/Bus.lean ====
section
/-! DEFINITION. The bus window, issue and completion of commands, and what each turn does (20_memory.md,
40_command_issue.md, 70_reset_and_hazards.md R901). -/

namespace Sys2Proof.Machine

/-- The registers of the window (10_state.md R101). -/
inductive Reg where
  | cmd
  | status
  | ctrLo
  | ctrHi
  | hotpVal
  | code
  | codeBcd
  | keyLen
  | mac (i : Fin 5)
  | id
  | keyw (i : Fin 16)
deriving DecidableEq, Repr

/-- Access of a register to the host (R101). -/
inductive Access where
  /-- host write, read returns 0 -/
  | wo
  /-- host read, host write ignored -/
  | ro
  /-- host read and write -/
  | rw
deriving DecidableEq, Repr

/-- The byte offset of a register (R101). -/
def Reg.offset : Reg → BitVec 8
  | .cmd => 0x00
  | .status => 0x04
  | .ctrLo => 0x08
  | .ctrHi => 0x0C
  | .hotpVal => 0x10
  | .code => 0x14
  | .codeBcd => 0x18
  | .keyLen => 0x1C
  | .mac i => BitVec.ofNat 8 (0x20 + 4 * i.val)
  | .id => 0x3C
  | .keyw i => BitVec.ofNat 8 (0x40 + 4 * i.val)

/-- The access column of R101. -/
def Reg.access : Reg → Access
  | .cmd => .wo
  | .status => .ro
  | .ctrLo => .rw
  | .ctrHi => .rw
  | .hotpVal => .rw
  | .code => .ro
  | .codeBcd => .ro
  | .keyLen => .ro
  | .mac _ => .rw
  | .id => .ro
  | .keyw _ => .ro

/-- Every register of the window. -/
def Reg.all : List Reg :=
  [.cmd, .status, .ctrLo, .ctrHi, .hotpVal, .code, .codeBcd, .keyLen]
    ++ (List.finRange 5).map .mac ++ [.id] ++ (List.finRange 16).map .keyw

/-- The register at a byte address; none when the address is misaligned or unmapped (20_memory.md R204). -/
def regAt (a : BitVec 8) : Option Reg := Reg.all.find? (fun r => r.offset == a)

/-- The value of a register (R101 to R114). -/
def readReg (s : State) : Reg → Word
  | .cmd => 0
  | .status => statusWord s
  | .ctrLo => s.ctrLo
  | .ctrHi => s.ctrHi
  | .hotpVal => s.hotpVal
  | .code => s.code
  | .codeBcd => s.codeBcd
  | .keyLen => s.keyLen.setWidth 32
  | .mac i => s.mac.word i
  | .id => Config.idValue
  | .keyw i => keyWord s i.val

/-- A host write of all 32 bits to a read-write register while BUSY = 0 (R207); the other registers are not storage
the host can write (R205). -/
def writeReg (s : State) (r : Reg) (v : Word) : State :=
  match r with
  | .cmd => s
  | .status => s
  | .ctrLo => { s with ctrLo := v }
  | .ctrHi => { s with ctrHi := v }
  | .hotpVal => setHotpVal s v
  | .code => s
  | .codeBcd => s
  | .keyLen => s
  | .mac i => setMac s (s.mac.setWord i v)
  | .id => s
  | .keyw _ => s

/-- The word of SRST, the one command accepted while BUSY = 1 (R350, 44_control.md R705). -/
def srstWord : Word := 0x00000001

/-- `Issue(v)` (40_command_issue.md R350, R351, R352). -/
def issue (s : State) (v : Word) : Result :=
  if s.busy then
    if v = srstWord then exec .srst s else .next (setOvr s)
  else if legal v = false then .next (raiseError s .illegalCmd)
  else if v = srstWord then exec .srst s
  else .next (accept s v)

/-- `Complete()` (R355): Execute(PEND) and STATUS.BUSY <- 0, together. -/
def complete (s : State) : Result :=
  match decode s.pend with
  | .ok i => mapNext finish (exec i s)
  | .error _ => .fault .pendMatchesNoRow

/-- `BusRead(a)` (R209): data and error bit. No state changes (R208). -/
def busRead (s : State) (a : BitVec 8) : Word × Bool :=
  match regAt a with
  | none => (0, true)
  | some r => (readReg s r, false)

/-- The error bit of a write (R209). -/
def busWriteErr (a : BitVec 8) : Bool := (regAt a).isNone

/-- The effect of `BusWrite(a, v)` (R209). -/
def busWrite (s : State) (a : BitVec 8) (v : Word) : Result :=
  match regAt a with
  | none => .next s
  | some r =>
    match r.access with
    | .wo => issue s v
    | .ro => .next s
    | .rw => .next (if s.busy then setOvr s else writeReg s r v)

/-- One host step: the transaction's effect and its response (R210). -/
def hostStep (s : State) : BusTx → Result
  | .read a => .next (respond s (.readData (busRead s a).1 (busRead s a).2))
  | .write a v => mapNext (respond · (.written (busWriteErr a))) (busWrite s a v)

/-- The sequencer's turn (R355): the completion while BUSY = 1; while BUSY = 0 it has no step, and the turn is an idle
cycle (log entry 6). -/
def sequencerStep (s : State) : Result := if s.busy then complete s else .next s

/-- A cycle with rst = 1 (70_reset_and_hazards.md R901): Reset(); a transaction has no effect, its read data is a free
value and its error bit 0 (20_memory.md R211). -/
def resetCycle (s : State) : Option BusTx → State
  | none => applyReset s
  | some (.read _) => bumpFree (respond (applyReset s) (.readData (freeReadData s.freeCount) false))
  | some (.write _ _) => respond (applyReset s) (.written false)

/-- What a turn does. -/
def runTurn (s : State) : Turn → Result
  | .host tx => hostStep s tx
  | .sequencer => sequencerStep s
  | .rst tx => .next (resetCycle s tx)

/-- The turn to be taken: the first of the script; when the script is empty the sequencer's, which is its weak fairness
(R358, 70_reset_and_hazards.md R931; log entry 5). -/
def nextTurn (s : State) : Turn := s.script.headD .sequencer

/-- The state in which the turn is taken: the turn off the script, and no bus response yet. -/
def startStep (s : State) : State := respond (setScript s s.script.tail) .none

/-- A command placed so that the very next step runs it: pending with the sequencer's turn next. SRST acts at its
issue and an illegal word is refused there (R350, R352), so those two stand on the bus, written to CMD (log
entry 10). -/
def placeCommand (s : State) (w : Word) : State :=
  if legal w = true ∧ w ≠ srstWord then setScript (accept s w) (.sequencer :: s.script)
  else setScript (finish s) (.host (.write Reg.cmd.offset w) :: s.script)

end Sys2Proof.Machine
end

