-- ==== Sys2Proof/Machine/Step.lean ====
section
/-! DEFINITION. One step of the machine: the next turn of the script. -/

namespace Sys2Proof.Machine

/-- One step: a host transaction, a completion, an idle cycle or a cycle of rst (00_scope.md R6, 20_memory.md R220). -/
def step (s : State) : Host.Outcome State Fault Refusal := runTurn (startStep s) (nextTurn s)

/-- `s` with the command whose bits are `w` placed where the next step runs it (log entry 10). -/
def State.withFetchWord (s : State) (nbits w : Nat) : State := placeCommand s (tableWord nbits w)

end Sys2Proof.Machine
end

