-- ==== Sys2Proof/Machine/Base32Text.lean ====
section
/-! DEFINITION. The decoding function on whole strings that the decoder's commands implement (41_base32.md R400). -/

namespace Sys2Proof.Machine

/-- '=' -/
def padChar : Byte := 0x3D

/-- The characters before the first '='. -/
def dataPart (s : List Byte) : List Byte := s.takeWhile (· != padChar)

/-- What follows them. -/
def padPart (s : List Byte) : List Byte := s.dropWhile (· != padChar)

/-- The valid strings of R400: (a) the length is a multiple of 8, (b) every byte is an alphabet character or '=',
(c) the '=' bytes form a suffix of length 0, 1, 3, 4 or 6. -/
def validText (s : List Byte) : Bool :=
  s.length % 8 == 0 && s.all (fun c => lut c != .invalid)
    && (padPart s).all (· == padChar) && [0, 1, 3, 4, 6].contains (padPart s).length

/-- The 5 bits of a data character, most significant first (R400). -/
def charBits (c : Byte) : List Bool :=
  match lut c with
  | .value v => [v.getLsbD 4, v.getLsbD 3, v.getLsbD 2, v.getLsbD 1, v.getLsbD 0]
  | .pad => []
  | .invalid => []

/-- `bits = v(s[0]) || v(s[1]) || ...` over the data characters (R400). -/
def textBits (s : List Byte) : List Bool := (dataPart s).flatMap charBits

/-- The number a bit string stands for, most significant bit first. -/
def bitsValue (bs : List Bool) : Nat := bs.foldl (fun n b => 2 * n + b.toNat) 0

/-- `Decode(s)`: the first floor(5d / 8) bytes of `bits`, each most significant bit first (R400). -/
def decodeText (s : List Byte) : List Byte :=
  (List.range (5 * (dataPart s).length / 8)).map fun i =>
    BitVec.ofNat 8 (bitsValue (((textBits s).drop (8 * i)).take 8))

end Sys2Proof.Machine
end

