-- ==== Sys2Proof/Machine/HostProgram.lean ====
section
/-! DEFINITION. The host's side, outside the block: the notation of host programs as turns of the script
(30_encoding.md R306, R307), commands run one after another, and the counter the host computes
(60_exceptions.md R840). -/

namespace Sys2Proof.Machine

/-- `wr REG, v` (R306). -/
def wr (r : Reg) (v : Word) : List Turn := [.host (.write r.offset v)]

/-- `rd REG` (R306). -/
def rd (r : Reg) : List Turn := [.host (.read r.offset)]

/-- `MNEMONIC` or `MNEMONIC imm`: a write of the command's word to CMD (R306). -/
def cmdTurns (i : Instr) : List Turn := wr .cmd (encode i)

/-- `wait` (R307): the loop `L: rd STATUS; bne_busy L` as it runs when `polls` reads see BUSY = 1 before the
completion; the last read sees BUSY = 0. Every interleaving of the loop is one value of `polls`. -/
def waitTurns (polls : Nat) : List Turn := (List.replicate polls (rd .status)).flatten ++ .sequencer :: rd .status

/-- `do MNEMONIC [imm]` (R307). -/
def doTurns (polls : Nat) (i : Instr) : List Turn := cmdTurns i ++ waitTurns polls

/-- `ctr n` (R307): CTR_HI first, then CTR_LO. -/
def ctrTurns (n : BitVec 64) : List Turn := wr .ctrHi (n.extractLsb' 32 32) ++ wr .ctrLo (n.extractLsb' 0 32)

/-- The commands of `b32 "s"` (R307). -/
def b32Commands (s : List Byte) : List Instr := .b32begin :: (s.map .b32char ++ [.b32end])

/-- The commands of `key "s"` and `keyhex h` (R307), for the bytes of the string. -/
def keyCommands (bs : List Byte) : List Instr := .keyclr :: bs.map .keybyte

/-- A list of commands, each followed by its `wait` (R307). -/
def doAllTurns (polls : Nat) (is : List Instr) : List Turn := is.flatMap (doTurns polls)

/-- The second part of a step after the first, if the first has a next state. -/
def bindNext (r : Result) (f : State → Result) : Result :=
  match r with
  | .next s => f s
  | .fault e => .fault e
  | .refused e => .refused e

/-- One command issued and run to its completion. -/
def runCommand (s : State) (i : Instr) : Result := bindNext (issue s (encode i)) sequencerStep

/-- Commands issued one after another, each run to its completion. -/
def runCommands : State → List Instr → Result
  | s, [] => .next s
  | s, i :: is => bindNext (runCommand s i) fun t => runCommands t is

/-- The counter a host writes: (now - time_offset) div interval; it refuses `now < time_offset` (R840). -/
def hostCounter (now timeOffset interval : Nat) : Option (BitVec 64) :=
  if now < timeOffset then none else some (BitVec.ofNat 64 ((now - timeOffset) / interval))

end Sys2Proof.Machine
end

