-- ==== Sys2Proof/Safety.lean ====
section
/-! DEFINITION. What counts as a safe state and a safe run: the invariants of 10_state.md R117, what the model adds to
them, and a run that never stops. -/

namespace Sys2Proof.Machine

/-- The invariants (a) to (e) of 10_state.md R117. -/
structure SpecInv (s : State) : Prop where
  /-- (a) -/
  sessionHasNoKey : s.b32st ≠ .idle → s.keyValid = false
  /-- (b) -/
  idleIsClean : s.b32st = .idle → s.b32pos = 0 ∧ s.acc = 0 ∧ s.nbits = 0
  /-- (c) -/
  keyLenBound : s.keyLen.toNat ≤ 64
  /-- (d) -/
  keyTailZero : ∀ i, s.keyLen.toNat ≤ i → s.key.read i = 0
  /-- (e) -/
  shifterAligned : s.b32st = .data → s.nbits.toNat = 5 * s.b32pos.toNat % 8 ∧ s.acc.toNat < 2 ^ s.nbits.toNat

/-- The model's invariant: R117, and what the rules named below add. -/
structure Inv (s : State) : Prop where
  spec : SpecInv s
  /-- the key buffer is in canonical form -/
  keyCanonical : s.key.wf = true
  /-- only a legal word other than SRST is ever pending (40_command_issue.md R350) -/
  pendingIsLegal : s.busy = true → legal s.pend = true ∧ s.pend ≠ srstWord
  /-- PAD is "inside the padding of the final quantum (B32POS ≠ 0)" (R105) -/
  padInsideQuantum : s.b32st = .pad → s.b32pos ≠ 0
  /-- FULL is a "padded final quantum complete" (R105, R420) -/
  fullAtBoundary : s.b32st = .full → s.b32pos = 0
  /-- CODE is at most 999999 (R109) -/
  codeInRange : s.code.toNat ≤ 999999
  /-- CODE_BCD holds the same code as CODE (R110) -/
  bcdMatchesCode : s.codeBcd = BitVec.ofNat 32 (bcd6 s.code.toNat)

/-- `s` with one more turn in front of those to come: a host transaction. -/
def hostTurn (s : State) (tx : BusTx) : State := setScript s (.host tx :: s.script)

/-- `s` with a sequencer turn next. -/
def sequencerTurn (s : State) : State := setScript s (.sequencer :: s.script)

/-- `s` with a cycle of rst next. -/
def rstTurn (s : State) (tx : Option BusTx) : State := setScript s (.rst tx :: s.script)

/-- The next step of `s` is the completion of command `i` (40_command_issue.md R355). -/
def completesNow (s : State) (i : Instr) : Prop :=
  nextTurn s = .sequencer ∧ s.busy = true ∧ decode s.pend = .ok i

/-- The next step of `s` is a reset: a cycle of rst, or the write of SRST to CMD. (A pending SRST, which no run from
reset has, counts as well; log entry 9.) -/
def resetsNow (s : State) : Prop :=
  (∃ tx, nextTurn s = .rst tx) ∨ nextTurn s = .host (.write 0x00 srstWord) ∨ completesNow s .srst

/-- `s` without what no command and no host can see (10_state.md R116): the SHA-1 and modulo registers. -/
def eraseHidden (s : State) : State := { s with sha := ShaUnit.reset, modu := ModUnit.reset }

/-- The block's state as the spec gives it a value at every point: without the hidden SHA-1 and modulo registers (R116:
unspecified between commands) and without the model's own fields (log entries 4, 5, 8). -/
def blockState (s : State) : State := { eraseHidden s with script := [], resp := .none, freeCount := 0 }

/-- A safe run: the machine takes `n` steps from `s` for every n, and never stops. -/
def Safe (s : State) : Prop := ∀ n, ∃ t, Host.Core.run core n s = .next t

end Sys2Proof.Machine
end

