-- ==== Sys2Proof/Certificates/Slice0/Obligations.lean ====
section
/-! DEFINITION. The statements about the model, for the provers. The fields script, resp and freeCount are the model's
own (log entries 4, 5 and 8); where a statement names them or a turn put in front of the script, that part is the
model's way of saying that a transaction, a completion or a reset happens. -/

open Sys2Proof Sys2Proof.Machine

/-! ### Encoding -/

/-- Every command is read back from its word, with every operand (30_encoding.md R300, R301, R303). -/
def Obligations.EncodeThenDecode : Prop :=
  ∀ i : Instr, decode (encode i) = .ok i

/-- A word that decodes is the word of its command: no bit of it is dropped (R303). -/
def Obligations.DecodeThenEncode : Prop :=
  ∀ (w : Word) (i : Instr), decode w = .ok i → encode i = w

/-- "No two rows match the same word" (R303). -/
def Obligations.NoTwoRowsMatchOneWord : Prop :=
  ∀ (w : Word) (r₁ r₂ : Row), r₁ ∈ rows → r₂ ∈ rows → r₁.covers w = true → r₂.covers w = true →
    r₁.mnemonic = r₂.mnemonic

/-- R305: which words are legal, by its list and by the rows; issuing an illegal word while idle. R352: its write while
idle raises ILLEGAL_CMD through the latch and changes nothing else. -/
def Obligations.IllegalWordsAsListed : Prop :=
  ∀ w : Word,
    (legal w = false ↔
      (let op := w.toNat % 256
       ((0x03 ≤ op ∧ op ≤ 0x0F) ∨ (0x13 ≤ op ∧ op ≤ 0x17) ∨ (0x1A ≤ op ∧ op ≤ 0x1F) ∨ (0x22 ≤ op ∧ op ≤ 0x2F)
          ∨ 0x32 ≤ op)
        ∨ w.toNat / 2 ^ 16 ≠ 0
        ∨ (op ≠ 0x11 ∧ op ≠ 0x19 ∧ w.toNat / 2 ^ 8 % 256 ≠ 0))) ∧
    (legal w = true ↔ ∃ r ∈ rows, w &&& r.mask = r.value) ∧
    (∀ s : State, s.busy = false → legal w = false →
      step (hostTurn s (.write 0x00 w))
        = .next { s with err := if s.err = .none then .illegalCmd else s.err, resp := .written false })

/-- Words written out from the patterns of R303 decode to their commands; neighbours are refused (R305). -/
def Obligations.TableWordsDecode : Prop :=
  decode 0b00000000000000000000000000000000 = .ok .nop ∧
  decode 0b00000000000000000000000000000001 = .ok .srst ∧
  decode 0b00000000000000000100110100010001 = .ok (.b32char 0x4D) ∧
  decode 0b00000000000000001111111100011001 = .ok (.keybyte 0xFF) ∧
  decode 0b00000000000000000000000000100001 = .ok .hotp ∧
  decode 0b00000000000000000000000000110001 = .ok .mod ∧
  decode 0x00000003 = .error .unlistedOp ∧
  decode 0x00010000 = .error .zeroFieldSet ∧
  decode 0x00000101 = .error .immNotZero

/-! ### Steps -/

/-- A sequencer turn runs the pending command: `exec` of it, and BUSY <- 0 in the same step; with BUSY = 0 the
sequencer has no step and the turn passes (R355). The sequencer's turn is the first of the script, or the script is
empty (log entry 5, the model's choice). -/
def Obligations.StepRunsPendingCommand : Prop :=
  ∀ s : State, (s.script = [] ∨ ∃ ts, s.script = .sequencer :: ts) →
    (∀ i, s.busy = true → decode s.pend = .ok i →
      step s = mapNext finish (exec i { s with script := s.script.tail, resp := .none })) ∧
    (s.busy = false → step s = .next { s with script := s.script.tail, resp := .none })

/-- A command placed by withFetchWord is the one the next step runs (log entry 10, the model's choice). -/
def Obligations.PlacedCommandRuns : Prop :=
  ∀ (s : State) (w : Word) (i : Instr), decode w = .ok i →
    (i ≠ .srst →
      step (s.withFetchWord 32 w.toNat) = mapNext finish (exec i { s with pend := w, busy := true, resp := .none })) ∧
    (i = .srst →
      step (s.withFetchWord 32 w.toNat)
        = mapNext (respond · (.written false)) (exec i { s with busy := false, resp := .none }))

/-- `Issue(v)`, the host's write of v to CMD, in its five branches, the bus error bit 0 in each (R350). The hidden
SHA-1 and modulo registers after Reset() are left open here. -/
def Obligations.IssueBranches : Prop :=
  ∀ (s : State) (v : Word),
    (s.busy = true → v = 0x00000001 →
      ∃ t, step (hostTurn s (.write 0x00 v)) = .next t ∧ blockState t = blockState State.reset ∧
        t.resp = .written false) ∧
    (s.busy = true → v ≠ 0x00000001 →
      step (hostTurn s (.write 0x00 v)) = .next { s with ovr := true, resp := .written false }) ∧
    (s.busy = false → legal v = false →
      step (hostTurn s (.write 0x00 v))
        = .next { s with err := if s.err = .none then .illegalCmd else s.err, resp := .written false }) ∧
    (s.busy = false → v = 0x00000001 →
      ∃ t, step (hostTurn s (.write 0x00 v)) = .next t ∧ blockState t = blockState State.reset ∧
        t.resp = .written false) ∧
    (s.busy = false → legal v = true → v ≠ 0x00000001 →
      step (hostTurn s (.write 0x00 v)) = .next { s with pend := v, busy := true, resp := .written false })

/-- A command word written while busy is dropped, and the pending command completes as if it had not been written:
the two completions differ in OVR at most (R351). -/
def Obligations.DroppedCommandDisturbsNothing : Prop :=
  ∀ (s : State) (v : Word), s.busy = true → v ≠ 0x00000001 →
    step (hostTurn s (.write 0x00 v)) = .next { s with ovr := true, resp := .written false } ∧
    mapNext (fun t => { t with ovr := false }) (step (sequencerTurn { s with ovr := true, resp := .written false }))
      = mapNext (fun t => { t with ovr := false }) (step (sequencerTurn s))

/-- Every pending legal command completes: one sequencer turn ends with BUSY = 0, errors included (R357, R358). -/
def Obligations.EveryPendingCommandCompletes : Prop :=
  ∀ s : State, s.busy = true → legal s.pend = true →
    ∃ t, step (sequencerTurn s) = .next t ∧ t.busy = false

/-- When the host's turns are over the block ends idle: from every state of the invariant, the turns of the script and
one more step lead to BUSY = 0 (R358; that the sequencer moves when the script is empty is log entry 5). -/
def Obligations.RunEndsIdle : Prop :=
  ∀ s : State, Inv s →
    ∃ t, Host.Core.run core (s.script.length + 1) s = .next t ∧ t.busy = false ∧ t.script = []

/-! ### Reset -/

/-- What a read of each register returns after reset, and the hidden PEND, ACC and NBITS (10_state.md R101 reset
column, 70_reset_and_hazards.md R900). -/
def Obligations.ResetValues : Prop :=
  (∀ r : Reg, readReg State.reset r = if r = .id then 0x54324641 else 0) ∧
  (∀ i, State.reset.key.read i = 0) ∧
  State.reset.pend = 0 ∧ State.reset.acc = 0 ∧ State.reset.nbits = 0

/-- SRST performs exactly Reset() at its issue, busy or not, and leaves the state a cycle of rst leaves: the same in
every register, and the reset values in every register the spec gives one (R902). -/
def Obligations.SoftResetEqualsRst : Prop :=
  ∀ s : State, ∃ a b,
    step (hostTurn s (.write 0x00 0x00000001)) = .next a ∧ step (rstTurn s none) = .next b ∧
    { a with resp := .none } = b ∧ blockState b = blockState State.reset

/-- A transaction in a cycle of rst has no effect: the cycle is a reset. The read data is the free value, whatever it
is, and the error bit is 0 (20_memory.md R211). -/
def Obligations.TransactionInResetCycle : Prop :=
  ∀ (s : State) (tx : BusTx), ∃ t,
    step (rstTurn s (some tx)) = .next t ∧ blockState t = blockState State.reset ∧
    (∀ a, tx = .read a → t.resp = .readData (freeReadData s.freeCount) false) ∧
    (∀ a v, tx = .write a v → t.resp = .written false)

/-! ### Bus -/

/-- A misaligned or unmapped transaction gets the error response and changes no state (R204). -/
def Obligations.MisalignedOrUnmapped : Prop :=
  ∀ (s : State) (a : BitVec 8) (v : Word),
    (a.toNat % 4 ≠ 0 ∨ a = 0x34 ∨ a = 0x38 ∨ 0x80 ≤ a.toNat) →
    step (hostTurn s (.read a)) = .next { s with resp := .readData 0 true } ∧
    step (hostTurn s (.write a v)) = .next { s with resp := .written true }

/-- A write to a read-only register changes nothing and gives no error, busy or not; a read of CMD returns 0 (R205). -/
def Obligations.ReadOnlyWritesIgnored : Prop :=
  ∀ (s : State) (a : BitVec 8) (v : Word),
    ((a = 0x04 ∨ a = 0x14 ∨ a = 0x18 ∨ a = 0x1C ∨ a = 0x3C ∨ (a.toNat % 4 = 0 ∧ 0x40 ≤ a.toNat ∧ a.toNat < 0x80)) →
      step (hostTurn s (.write a v)) = .next { s with resp := .written false }) ∧
    step (hostTurn s (.read 0x00)) = .next { s with resp := .readData 0 false }

/-- A write to a read-write register, or of a word other than SRST to CMD, while busy is dropped and sets OVR; the
error bit is 0 (R206, R351). -/
def Obligations.BusyWritesDropped : Prop :=
  ∀ (s : State) (a : BitVec 8) (v : Word), s.busy = true →
    ((a = 0x00 ∧ v ≠ 0x00000001) ∨ a = 0x08 ∨ a = 0x0C ∨ a = 0x10 ∨
      (a.toNat % 4 = 0 ∧ 0x20 ≤ a.toNat ∧ a.toNat ≤ 0x30)) →
    step (hostTurn s (.write a v)) = .next { s with ovr := true, resp := .written false }

/-- A write to a read-write register while idle stores all 32 bits there and nowhere else (R207). -/
def Obligations.IdleWritesStore : Prop :=
  ∀ (s : State) (v : Word), s.busy = false →
    step (hostTurn s (.write 0x08 v)) = .next { s with ctrLo := v, resp := .written false } ∧
    step (hostTurn s (.write 0x0C v)) = .next { s with ctrHi := v, resp := .written false } ∧
    step (hostTurn s (.write 0x10 v)) = .next { s with hotpVal := v, resp := .written false } ∧
    step (hostTurn s (.write 0x20 v)) = .next { s with mac := { s.mac with h0 := v }, resp := .written false } ∧
    step (hostTurn s (.write 0x24 v)) = .next { s with mac := { s.mac with h1 := v }, resp := .written false } ∧
    step (hostTurn s (.write 0x28 v)) = .next { s with mac := { s.mac with h2 := v }, resp := .written false } ∧
    step (hostTurn s (.write 0x2C v)) = .next { s with mac := { s.mac with h3 := v }, resp := .written false } ∧
    step (hostTurn s (.write 0x30 v)) = .next { s with mac := { s.mac with h4 := v }, resp := .written false }

/-- What a read of each storage register returns, with no side effect, busy or not (R101, R208, R209, R114). -/
def Obligations.ReadsReturnRegisters : Prop :=
  ∀ s : State,
    step (hostTurn s (.read 0x04)) = .next { s with resp := .readData (statusWord s) false } ∧
    step (hostTurn s (.read 0x08)) = .next { s with resp := .readData s.ctrLo false } ∧
    step (hostTurn s (.read 0x0C)) = .next { s with resp := .readData s.ctrHi false } ∧
    step (hostTurn s (.read 0x10)) = .next { s with resp := .readData s.hotpVal false } ∧
    step (hostTurn s (.read 0x14)) = .next { s with resp := .readData s.code false } ∧
    step (hostTurn s (.read 0x18)) = .next { s with resp := .readData s.codeBcd false } ∧
    step (hostTurn s (.read 0x1C)) = .next { s with resp := .readData (BitVec.ofNat 32 s.keyLen.toNat) false } ∧
    step (hostTurn s (.read 0x20)) = .next { s with resp := .readData s.mac.h0 false } ∧
    step (hostTurn s (.read 0x24)) = .next { s with resp := .readData s.mac.h1 false } ∧
    step (hostTurn s (.read 0x28)) = .next { s with resp := .readData s.mac.h2 false } ∧
    step (hostTurn s (.read 0x2C)) = .next { s with resp := .readData s.mac.h3 false } ∧
    step (hostTurn s (.read 0x30)) = .next { s with resp := .readData s.mac.h4 false } ∧
    step (hostTurn s (.read 0x3C)) = .next { s with resp := .readData 0x54324641 false } ∧
    ∀ i : Nat, i < 16 →
      step (hostTurn s (.read (BitVec.ofNat 8 (0x40 + 4 * i))))
        = .next { s with resp := .readData (s.key.read (4 * i) ++ s.key.read (4 * i + 1) ++ s.key.read (4 * i + 2)
            ++ s.key.read (4 * i + 3)) false }

/-- The fields of STATUS by bit, with the codes of B32ST and ERR, and the reserved bits zero (R103, R105, R801). -/
def Obligations.StatusFields : Prop :=
  ∀ s : State,
    (statusWord s).getLsbD 0 = s.busy ∧ (statusWord s).getLsbD 1 = s.keyValid ∧ (statusWord s).getLsbD 2 = s.ovr ∧
    (statusWord s).getLsbD 3 = false ∧ (statusWord s).getLsbD 7 = false ∧
    (statusWord s).toNat / 2 ^ 15 = 0 ∧
    (statusWord s).extractLsb' 4 3 =
      (match s.b32st with
        | .idle => 0
        | .data => 1
        | .pad => 2
        | .full => 3
        | .error => 4) ∧
    (statusWord s).extractLsb' 8 4 =
      (match s.err with
        | .none => 0
        | .b32Char => 1
        | .b32Pad => 2
        | .b32Len => 3
        | .keyOvf => 4
        | .noKey => 5
        | .seq => 6
        | .illegalCmd => 7) ∧
    (statusWord s).extractLsb' 12 3 = s.b32pos

/-- While busy a host transaction other than SRST changes nothing but OVR and the response, so a read sees the values
from before the command and the command finds its operands as they were at its issue (R220, R223). -/
def Obligations.BusyHostStepsKeepState : Prop :=
  ∀ (s : State) (tx : BusTx), s.busy = true → tx ≠ .write 0x00 0x00000001 →
    ∃ o r, step (hostTurn s tx) = .next { s with ovr := o, resp := r }

/-! ### Invariants -/

/-- The invariants (a) to (e) of R117 hold after reset and are kept by every step from every state, and (f) while BUSY = 0 a step does not
depend on PEND (R117). -/
def Obligations.SpecInvariantKept : Prop :=
  SpecInv State.reset ∧
  (∀ s t : State, SpecInv s → step s = .next t → SpecInv t) ∧
  (∀ (s : State) (w : Word), s.busy = false →
    ∃ t u, step s = .next t ∧ step { s with pend := w } = .next u ∧ (u = t ∨ u = { t with pend := w }))

/-- From every state of the model's invariant the machine steps on, and the invariant holds again: no run of the
block stops. -/
def Obligations.InvariantStatesStepOn : Prop :=
  ∀ s : State, Inv s → ∃ t, step s = .next t ∧ Inv t

/-- The invariant holds after reset, whatever turns are to come. -/
def Obligations.ResetMeetsInvariant : Prop :=
  ∀ ts : List Turn, Inv { State.reset with script := ts }

/-- Every step from every state keeps the key buffer's canonical form. -/
def Obligations.KeyBufferStaysCanonical : Prop :=
  ∀ s t : State, s.key.wf = true → step s = .next t → t.key.wf = true

/-! ### Control commands -/

/-- NOP does nothing, CLRERR clears ERR and OVR and nothing else, SRST resets (44_control.md R700, R705, R710). -/
def Obligations.ControlCommands : Prop :=
  ∀ s : State,
    exec .nop s = .next s ∧
    exec .clrerr s = .next { s with err := .none, ovr := false } ∧
    ∃ t, exec .srst s = .next t ∧ blockState t = blockState State.reset

/-! ### Key loading -/

/-- B32BEGIN and KEYCLR complete in every state: an empty key, KEY_VALID 0 and 1, a fresh session and none
(41_base32.md R410, R440). -/
def Obligations.KeyStartCommands : Prop :=
  ∀ s : State, ∃ m : Memory, (∀ i, m.read i = 0) ∧
    exec .b32begin s = .next { s with key := m, keyLen := 0, keyValid := false, acc := 0, nbits := 0, b32pos := 0,
                                      b32st := .data } ∧
    exec .keyclr s = .next { s with key := m, keyLen := 0, keyValid := true, acc := 0, nbits := 0, b32pos := 0,
                                    b32st := .idle }

/-- KEYBYTE appends its byte at index KEY_LEN when a valid key is loaded and is not full; every other byte of the
buffer and everything else is unchanged (R441, R422). -/
def Obligations.KeybyteAppends : Prop :=
  ∀ (s : State) (b : Byte), s.b32st = .idle → s.keyValid = true → s.keyLen.toNat < 64 → s.key.wf = true →
    ∃ m : Memory, ∃ n : BitVec 7,
      exec (.keybyte b) s = .next { s with key := m, keyLen := n } ∧ n.toNat = s.keyLen.toNat + 1 ∧
      m.read s.keyLen.toNat = b ∧ (∀ i, i ≠ s.keyLen.toNat → m.read i = s.key.read i) ∧ m.wf = true

/-- KEYBYTE's two errors: SEQ with a session open or no valid key, KEY_OVF with a full key, which it invalidates
(R441). The second clause holds at every KEY_LEN not below 64; a run reaches only 64 (R117). -/
def Obligations.KeybyteErrors : Prop :=
  ∀ (s : State) (b : Byte),
    (s.b32st ≠ .idle ∨ s.keyValid = false →
      exec (.keybyte b) s = .next { s with err := if s.err = .none then .seq else s.err }) ∧
    (s.b32st = .idle → s.keyValid = true → 64 ≤ s.keyLen.toNat →
      exec (.keybyte b) s
        = .next { s with err := if s.err = .none then .keyOvf else s.err, keyValid := false })

/-- The lookup table on all 256 bytes (R401). -/
def Obligations.LookupTable : Prop :=
  (∀ k : Nat, k < 26 → lut (BitVec.ofNat 8 (0x41 + k)) = .value (BitVec.ofNat 5 k)) ∧
  (∀ k : Nat, k < 6 → lut (BitVec.ofNat 8 (0x32 + k)) = .value (BitVec.ofNat 5 (26 + k))) ∧
  lut 0x3D = .pad ∧
  (∀ c : Byte, ¬(0x41 ≤ c.toNat ∧ c.toNat ≤ 0x5A) → ¬(0x32 ≤ c.toNat ∧ c.toNat ≤ 0x37) → c ≠ 0x3D →
    lut c = .invalid)

/-- The shifter in numbers: with a = 32 acc + v and n = nb + 5, eight bits or more emit the oldest eight
(R421). -/
def Obligations.ShifterArithmetic : Prop :=
  ∀ (acc : BitVec 12) (nb : BitVec 3) (v : BitVec 5), acc.toNat < 2 ^ nb.toNat →
    (8 ≤ nb.toNat + 5 → ∃ b,
      (shift acc nb v).byte = some b ∧ b.toNat = (32 * acc.toNat + v.toNat) / 2 ^ (nb.toNat - 3) ∧
      (shift acc nb v).nbits.toNat = nb.toNat - 3 ∧
      (shift acc nb v).acc.toNat = (32 * acc.toNat + v.toNat) % 2 ^ (nb.toNat - 3)) ∧
    (nb.toNat + 5 < 8 →
      (shift acc nb v).byte = none ∧ (shift acc nb v).nbits.toNat = nb.toNat + 5 ∧
      (shift acc nb v).acc.toNat = 32 * acc.toNat + v.toNat)

/-- B32CHAR with a data character in state DATA completes: it shifts, appends the byte it completes, or overflows
(R420, R421, R422). -/
def Obligations.B32charData : Prop :=
  ∀ (s : State) (c : Byte) (v : BitVec 5), s.b32st = .data → lut c = .value v → s.acc.toNat < 2 ^ s.nbits.toNat →
    (s.nbits.toNat < 3 →
      exec (.b32char c) s = .next { s with acc := BitVec.ofNat 12 (32 * s.acc.toNat + v.toNat),
                                           nbits := BitVec.ofNat 3 (s.nbits.toNat + 5), b32pos := s.b32pos + 1 }) ∧
    (3 ≤ s.nbits.toNat → s.keyLen.toNat < 64 → s.key.wf = true → ∃ m : Memory,
      exec (.b32char c) s
        = .next { s with acc := BitVec.ofNat 12 ((32 * s.acc.toNat + v.toNat) % 2 ^ (s.nbits.toNat - 3)),
                         nbits := BitVec.ofNat 3 (s.nbits.toNat - 3), b32pos := s.b32pos + 1,
                         key := m, keyLen := s.keyLen + 1 } ∧
      m.read s.keyLen.toNat = BitVec.ofNat 8 ((32 * s.acc.toNat + v.toNat) / 2 ^ (s.nbits.toNat - 3)) ∧
      (∀ i, i ≠ s.keyLen.toNat → m.read i = s.key.read i)) ∧
    (3 ≤ s.nbits.toNat → 64 ≤ s.keyLen.toNat →
      exec (.b32char c) s = .next { s with err := if s.err = .none then .keyOvf else s.err, b32st := .error })

/-- B32CHAR in every other case completes: no session, a failed session, an invalid character, and '=' or a data
character in or after the padding (R420, R402). -/
def Obligations.B32charPaddingAndErrors : Prop :=
  ∀ (s : State) (c : Byte),
    (s.b32st = .idle → exec (.b32char c) s = .next { s with err := if s.err = .none then .seq else s.err }) ∧
    (s.b32st = .error → exec (.b32char c) s = .next s) ∧
    (s.b32st = .data ∨ s.b32st = .pad ∨ s.b32st = .full → lut c = .invalid →
      exec (.b32char c) s = .next { s with err := if s.err = .none then .b32Char else s.err, b32st := .error }) ∧
    (s.b32st = .data → lut c = .pad → s.b32pos = 2 ∨ s.b32pos = 4 ∨ s.b32pos = 5 →
      exec (.b32char c) s = .next { s with b32pos := s.b32pos + 1, b32st := .pad }) ∧
    (s.b32st = .data ∨ s.b32st = .pad → lut c = .pad → s.b32pos = 7 →
      exec (.b32char c) s = .next { s with b32pos := 0, b32st := .full }) ∧
    (s.b32st = .data → lut c = .pad → s.b32pos = 0 ∨ s.b32pos = 1 ∨ s.b32pos = 3 ∨ s.b32pos = 6 →
      exec (.b32char c) s = .next { s with err := if s.err = .none then .b32Pad else s.err, b32st := .error }) ∧
    (s.b32st = .pad → lut c = .pad → s.b32pos ≠ 7 →
      exec (.b32char c) s = .next { s with b32pos := s.b32pos + 1 }) ∧
    (∀ v, s.b32st = .pad ∨ s.b32st = .full → lut c = .value v →
      exec (.b32char c) s = .next { s with err := if s.err = .none then .b32Pad else s.err, b32st := .error }) ∧
    (s.b32st = .full → lut c = .pad →
      exec (.b32char c) s = .next { s with err := if s.err = .none then .b32Pad else s.err, b32st := .error })

/-- A character that makes the session fail changes only B32ST and ERR (R420 corner cases, D26). -/
def Obligations.FailingCharacterFrame : Prop :=
  ∀ (s t : State) (c : Byte), s.b32st ≠ .error → exec (.b32char c) s = .next t → t.b32st = .error →
    t = { s with b32st := .error, err := t.err } ∧ t.err ≠ .none

/-- B32END in each decoder state (R430). -/
def Obligations.B32endCloses : Prop :=
  ∀ s : State,
    (s.b32st = .idle → exec .b32end s = .next { s with err := if s.err = .none then .seq else s.err }) ∧
    (s.b32st = .error → exec .b32end s = .next { s with b32st := .idle, b32pos := 0, acc := 0, nbits := 0 }) ∧
    (s.b32st = .full ∨ (s.b32st = .data ∧ s.b32pos = 0) →
      exec .b32end s = .next { s with keyValid := true, b32st := .idle, b32pos := 0, acc := 0, nbits := 0 }) ∧
    (s.b32st = .pad ∨ (s.b32st = .data ∧ s.b32pos ≠ 0) →
      exec .b32end s = .next { s with err := if s.err = .none then .b32Len else s.err, b32st := .idle, b32pos := 0,
                                      acc := 0, nbits := 0 })

/-- The five key-loading commands write only the key, KEY_LEN, KEY_VALID, the decoder's registers and ERR. Of the key
buffer B32END writes nothing, B32CHAR and KEYBYTE at most the byte at index KEY_LEN, and only with KEY_LEN raised. -/
def Obligations.KeyLoadingFrame : Prop :=
  ∀ (i : Instr) (s t : State), exec i s = .next t →
    (i = .b32begin ∨ i = .b32end ∨ i = .keyclr ∨ (∃ c, i = .b32char c) ∨ (∃ b, i = .keybyte b) →
      t = { s with keyValid := t.keyValid, b32st := t.b32st, b32pos := t.b32pos, err := t.err, key := t.key,
                   keyLen := t.keyLen, acc := t.acc, nbits := t.nbits }) ∧
    (i = .b32end → t.key = s.key ∧ t.keyLen = s.keyLen) ∧
    ((∃ c, i = .b32char c) ∨ (∃ b, i = .keybyte b) →
      (t.keyLen = s.keyLen ∧ ∀ j, t.key.read j = s.key.read j) ∨
      (t.keyLen = s.keyLen + 1 ∧ ∀ j, j ≠ s.keyLen.toNat → t.key.read j = s.key.read j)) ∧
    ((∃ b, i = .keybyte b) →
      t.b32st = s.b32st ∧ t.b32pos = s.b32pos ∧ t.acc = s.acc ∧ t.nbits = s.nbits) ∧
    ((∃ c, i = .b32char c) → t.keyValid = s.keyValid)

/-- A decode session on any string of bytes, from any idle block: it ends in IDLE; a valid string of at most 64 key
bytes gives exactly Decode(s) as a valid key; any other string gives no valid key and raises one of four errors,
which ERR shows if it was clear (R403). -/
def Obligations.SessionDecodesString : Prop :=
  ∀ (s : State) (str : List Byte), s.busy = false → ∃ t,
    runCommands s (b32Commands str) = .next t ∧ t.b32st = .idle ∧
    (validText str = true ∧ 5 * (dataPart str).length / 8 ≤ 64 →
      t.keyValid = true ∧ t.keyLen.toNat = 5 * (dataPart str).length / 8 ∧ keyBytes t = decodeText str) ∧
    (¬(validText str = true ∧ 5 * (dataPart str).length / 8 ≤ 64) →
      t.keyValid = false ∧
      (s.err = .none → t.err = .b32Char ∨ t.err = .b32Pad ∨ t.err = .b32Len ∨ t.err = .keyOvf))

/-! ### HMAC-SHA1 -/

/-- HMAC with a valid key completes: it writes the five MAC words with the digest of the four-phase sequence and
nothing else that can be seen; the hidden SHA-1 registers hold some value (R535, R531, R116). -/
def Obligations.HmacCompletes : Prop :=
  ∀ s : State, s.keyValid = true → ∃ u n,
    exec .hmac s = .next { s with mac := (s.sha.hmacSequence (keyBlock s) s.ctrHi s.ctrLo).h, sha := u, freeCount := n }

/-- HMAC and HOTP without a valid key raise NO_KEY and write nothing else (R535, R620). -/
def Obligations.NoKeyNoResult : Prop :=
  ∀ s : State, s.keyValid = false →
    exec .hmac s = .next { s with err := if s.err = .none then .noKey else s.err } ∧
    exec .hotp s = .next { s with err := if s.err = .none then .noKey else s.err }

/-- The sequencer's MAC is HMAC-SHA1 of the key and the 8-byte big-endian counter, in every state in which the key has
at most 64 bytes and the buffer is zero behind it (R532; R117 (c), (d) are the premises). -/
def Obligations.MacIsHmacSha1 : Prop :=
  ∀ s : State, s.keyValid = true → s.keyLen.toNat ≤ 64 → (∀ i, s.keyLen.toNat ≤ i → s.key.read i = 0) →
    ∃ t, exec .hmac s = .next t ∧ t.mac = hmacSha1 (keyBytes s) (be64 (s.ctrHi ++ s.ctrLo))

/-- The final addition, and that load, 80 rounds and the final addition compute Compress(H, b), from whatever the unit
held (R512). -/
def Obligations.RoundProcessorCompresses : Prop :=
  ∀ (u : ShaUnit) (m : Block),
    u.finalAdd.h = ⟨u.h.h0 + u.work.a, u.h.h1 + u.work.b, u.h.h2 + u.work.c, u.h.h3 + u.work.d, u.h.h4 + u.work.e⟩ ∧
    (u.compress m).h = sha1Compress u.h m

/-- The circular buffer holds the schedule words a round needs and yields W_t at round t (R509). -/
def Obligations.CircularScheduleYieldsWords : Prop :=
  ∀ (u : ShaUnit) (m : Block) (t : Nat), t < 80 →
    (advanceSchedule t ((u.load m).rounds t).w)[slot t] = schedule m t ∧
    (16 ≤ t →
      ((u.load m).rounds t).w[slot (t + 13)] = schedule m (t - 3) ∧
      ((u.load m).rounds t).w[slot (t + 8)] = schedule m (t - 8) ∧
      ((u.load m).rounds t).w[slot (t + 2)] = schedule m (t - 14) ∧
      ((u.load m).rounds t).w[slot t] = schedule m (t - 16))

/-- SHA-1's padding: M, 0x80, the least number k of zeros with (L + 1 + k) mod 64 = 56, and the bit length; its length
is a multiple of 64; the messages the block pads have 72 and 84 bytes (R503). -/
def Obligations.PaddingRule : Prop :=
  (∀ msg : List Byte, msg.length < 2 ^ 61 →
    (sha1Pad msg).length % 64 = 0 ∧
    ∃ k : Nat, (msg.length + 1 + k) % 64 = 56 ∧ (∀ j, (msg.length + 1 + j) % 64 = 56 → k ≤ j) ∧
      sha1Pad msg = msg ++ [0x80] ++ List.replicate k 0 ++ be64 (BitVec.ofNat 64 (8 * msg.length))) ∧
  (∀ (k : List Byte) (c : BitVec 64) (d : Digest), k.length ≤ 64 →
    (xorPad k 0x36 ++ be64 c).length = 72 ∧ (xorPad k 0x5C ++ d.bytes).length = 84)

/-- The blocks of the four phases are the blocks of the two padded messages: the keyed blocks of R530, and the second
blocks of phase 1 and phase 3 (R531). -/
def Obligations.PhaseBlocksArePaddedMessages : Prop :=
  ∀ (s : State) (d : Digest), s.keyLen.toNat ≤ 64 → (∀ i, s.keyLen.toNat ≤ i → s.key.read i = 0) →
    (let inner := sha1Pad (xorPad (keyBytes s) 0x36 ++ be64 (counter s))
     let outer := sha1Pad (xorPad (keyBytes s) 0x5C ++ d.bytes)
     inner.length = 128 ∧ outer.length = 128 ∧
     blockAt inner 0 = ipadBlock (keyBlock s) ∧ blockAt inner 64 = counterBlock s.ctrHi s.ctrLo ∧
     blockAt outer 0 = opadBlock (keyBlock s) ∧ blockAt outer 64 = innerBlock d)

/-! ### Truncation and reduction -/

/-- TRUNC completes on every digest: HOTP_VAL is the window at the low four bits of byte 19, as bytes and as bits
[159 - 8 off : 128 - 8 off] of MAC0 || .. || MAC4, with bit 31 cleared; the window never reaches byte 19 (R601). -/
def Obligations.TruncWindow : Prop :=
  ∀ s : State,
    (let off := s.mac.h4.toNat % 16
     let window := (s.mac.h0 ++ s.mac.h1 ++ s.mac.h2 ++ s.mac.h3 ++ s.mac.h4).extractLsb' (128 - 8 * off) 32
     off = (s.mac.bytes.getD 19 0 &&& 0x0F).toNat ∧
     off + 3 ≤ 18 ∧
     window = be32At s.mac.bytes off ∧
     dynTrunc s.mac.bytes = window &&& 0x7FFFFFFF ∧
     exec .trunc s = .next { s with hotpVal := window &&& 0x7FFFFFFF })

/-- MOD completes on every HOTP_VAL: CODE and CODE_BCD, and nothing else that can be seen (R610, R602, R603). -/
def Obligations.ModCompletes : Prop :=
  ∀ s : State, ∃ u n,
    exec .mod s = .next { s with code := BitVec.ofNat 32 (s.hotpVal.toNat % 1000000),
                                 codeBcd := BitVec.ofNat 32 (bcd6 (s.hotpVal.toNat % 1000000)),
                                 modu := u, freeCount := n }

/-- HOTP with a valid key completes: digest, truncation and reduction in one step (R620). -/
def Obligations.HotpCompletes : Prop :=
  ∀ s : State, s.keyValid = true →
    (let d := (s.sha.hmacSequence (keyBlock s) s.ctrHi s.ctrLo).h
     ∃ u m n,
       exec .hotp s = .next { s with mac := d, hotpVal := dynTrunc d.bytes,
                                     code := BitVec.ofNat 32 ((dynTrunc d.bytes).toNat % 1000000),
                                     codeBcd := BitVec.ofNat 32 (bcd6 ((dynTrunc d.bytes).toNat % 1000000)),
                                     sha := u, modu := m, freeCount := n })

/-- HOTP gives what HMAC, then TRUNC, then MOD give, but for the hidden registers (R620 corner cases). -/
def Obligations.HotpIsHmacTruncMod : Prop :=
  ∀ s : State, s.keyValid = true → ∃ a b c d,
    exec .hotp s = .next a ∧ exec .hmac s = .next b ∧ exec .trunc b = .next c ∧ exec .mod c = .next d ∧
    { eraseHidden a with freeCount := 0 } = { eraseHidden d with freeCount := 0 }

/-- The modulo unit's datapath computes Reduce and BCD6 from whatever it held, in 52 steps (R612). -/
def Obligations.ModuloDatapath : Prop :=
  ∀ (u : ModUnit) (x : Word),
    (u.run x).1.rem.toNat = x.toNat % 1000000 ∧
    (u.run x).2.toNat = bcd6 (x.toNat % 1000000) ∧
    (u.run x).1.steps = 52

/-- The four result commands write only their result registers (and ERR without a key, and hidden registers); every
byte of the key reads as before (R535, R600, R610, R620). -/
def Obligations.ResultCommandFrame : Prop :=
  ∀ (i : Instr) (s t : State), exec i s = .next t →
    (i = .hmac ∨ i = .hotp ∨ i = .trunc ∨ i = .mod →
      t = { s with mac := t.mac, hotpVal := t.hotpVal, code := t.code, codeBcd := t.codeBcd, err := t.err,
                   sha := t.sha, modu := t.modu, freeCount := t.freeCount } ∧
      (∀ j, t.key.read j = s.key.read j)) ∧
    (i = .hmac → t.hotpVal = s.hotpVal ∧ t.code = s.code ∧ t.codeBcd = s.codeBcd ∧ t.modu = s.modu) ∧
    (i = .trunc → t.mac = s.mac ∧ t.code = s.code ∧ t.codeBcd = s.codeBcd ∧ t.err = s.err ∧ t.sha = s.sha
      ∧ t.modu = s.modu ∧ t.freeCount = s.freeCount) ∧
    (i = .mod → t.mac = s.mac ∧ t.hotpVal = s.hotpVal ∧ t.err = s.err ∧ t.sha = s.sha) ∧
    (i = .hmac ∨ i = .hotp → s.keyValid = true → t.err = s.err)

/-- The same key and counter give the same results, whatever else two states hold (R535: "the same key and counter
always give the same MAC"). -/
def Obligations.KeyAndCounterDetermineCode : Prop :=
  ∀ s s' t t' : State,
    s.keyValid = true → s'.keyValid = true → s.key = s'.key → s.ctrHi = s'.ctrHi → s.ctrLo = s'.ctrLo →
    (exec .hmac s = .next t → exec .hmac s' = .next t' → t.mac = t'.mac) ∧
    (exec .hotp s = .next t → exec .hotp s' = .next t' →
      t.mac = t'.mac ∧ t.hotpVal = t'.hotpVal ∧ t.code = t'.code ∧ t.codeBcd = t'.codeBcd)

/-! ### Whole-machine rules -/

/-- Who changes the counter: COUNTER is CTR_HI || CTR_LO, and only a host write to that half while BUSY = 0, or a
reset, changes a half (10_state.md R107). -/
def Obligations.OnlyHostWritesCounter : Prop :=
  (∀ s : State, (counter s).toNat = s.ctrHi.toNat * 2 ^ 32 + s.ctrLo.toNat) ∧
  (∀ s t : State, step s = .next t → ¬resetsNow s →
    (t.ctrLo = s.ctrLo ∨ ∃ v, nextTurn s = .host (.write 0x08 v) ∧ s.busy = false ∧ t.ctrLo = v) ∧
    (t.ctrHi = s.ctrHi ∨ ∃ v, nextTurn s = .host (.write 0x0C v) ∧ s.busy = false ∧ t.ctrHi = v))

/-- Who changes CODE and CODE_BCD, and what they hold then: only MOD, HOTP and reset write them; after MOD or HOTP CODE
is HOTP_VAL mod 10^6, below 2^20 (R109), and CODE_BCD its six decimal digits with bits 31:24 zero (R110). -/
def Obligations.CodeRegisters : Prop :=
  (∀ s t : State, step s = .next t → ¬resetsNow s → ¬completesNow s .mod → ¬completesNow s .hotp →
    t.code = s.code ∧ t.codeBcd = s.codeBcd) ∧
  (∀ (s t : State) (i : Instr), exec i s = .next t → i = .mod ∨ (i = .hotp ∧ s.keyValid = true) →
    t.code.toNat = t.hotpVal.toNat % 1000000 ∧ t.code.toNat < 2 ^ 20 ∧
    (∀ k : Nat, k < 6 → t.codeBcd.toNat / 2 ^ (4 * k) % 16 = t.code.toNat / 10 ^ k % 10) ∧
    t.codeBcd.toNat / 2 ^ 24 = 0)

/-- Who changes MAC and HOTP_VAL: HMAC and HOTP, TRUNC and HOTP, a host write while BUSY = 0, and reset; after TRUNC or
HOTP bit 31 of HOTP_VAL is 0 (R108, R112). -/
def Obligations.DigestAndHotpWriters : Prop :=
  (∀ s t : State, step s = .next t → ¬resetsNow s →
    (t.mac = s.mac ∨ completesNow s .hmac ∨ completesNow s .hotp ∨
      ∃ a v, nextTurn s = .host (.write a v) ∧ s.busy = false ∧ 0x20 ≤ a.toNat ∧ a.toNat ≤ 0x30) ∧
    (t.hotpVal = s.hotpVal ∨ completesNow s .trunc ∨ completesNow s .hotp ∨
      ∃ v, nextTurn s = .host (.write 0x10 v) ∧ s.busy = false ∧ t.hotpVal = v)) ∧
  (∀ (s t : State) (i : Instr), exec i s = .next t → i = .trunc ∨ (i = .hotp ∧ s.keyValid = true) →
    t.hotpVal.toNat < 2 ^ 31)

/-- The error latch: it sets ERR only when ERR is NONE; the first error is kept; only CLRERR, SRST and rst clear it
(60_exceptions.md R810). -/
def Obligations.FirstErrorIsKept : Prop :=
  (∀ (s : State) (c : ErrCode), raiseError s c = { s with err := if s.err = .none then c else s.err }) ∧
  (∀ s t : State, step s = .next t → s.err ≠ .none →
    t.err = s.err ∨ (t.err = .none ∧ (resetsNow s ∨ completesNow s .clrerr)))

/-- OVR: set by every host write dropped while busy (to a read-write register, or of a word other than SRST to CMD), and
by no other step; setting it leaves ERR alone; cleared only by CLRERR, SRST and rst; raising an error leaves it alone
(R812). -/
def Obligations.OvrIsSticky : Prop :=
  (∀ (s : State) (a : BitVec 8) (v : Word), s.busy = true →
    (a = 0x00 ∧ v ≠ 0x00000001) ∨ a = 0x08 ∨ a = 0x0C ∨ a = 0x10 ∨ (a.toNat % 4 = 0 ∧ 0x20 ≤ a.toNat ∧ a.toNat ≤ 0x30) →
    ∃ t, step (hostTurn s (.write a v)) = .next t ∧ t.ovr = true ∧ t.err = s.err) ∧
  (∀ s t : State, step s = .next t → s.ovr = false → t.ovr = true →
    s.busy = true ∧ t.err = s.err ∧ ∃ a v, nextTurn s = .host (.write a v) ∧
      ((a = 0x00 ∧ v ≠ 0x00000001) ∨ a = 0x08 ∨ a = 0x0C ∨ a = 0x10 ∨
        (a.toNat % 4 = 0 ∧ 0x20 ≤ a.toNat ∧ a.toNat ≤ 0x30))) ∧
  (∀ s t : State, step s = .next t → s.ovr = true → t.ovr = false → resetsNow s ∨ completesNow s .clrerr) ∧
  (∀ (s : State) (c : ErrCode), (raiseError s c).ovr = s.ovr)

/-- How the key buffer changes in a step, from any state: not at all, or it is emptied whole, or one byte is written at
index KEY_LEN and KEY_LEN is raised by one; bytes at and above KEY_LEN stay zero; after reset every byte is zero (R115). -/
def Obligations.KeyBufferChanges : Prop :=
  (∀ i, State.reset.key.read i = 0) ∧
  ∀ s t : State, step s = .next t →
    ((t.keyLen = s.keyLen ∧ t.key = s.key) ∨
     (t.keyLen = 0 ∧ ∀ i, t.key.read i = 0) ∨
     (s.keyLen.toNat < 64 ∧ t.keyLen.toNat = s.keyLen.toNat + 1 ∧
       ∀ i, i ≠ s.keyLen.toNat → t.key.read i = s.key.read i)) ∧
    ((∀ i, s.keyLen.toNat ≤ i → s.key.read i = 0) → ∀ i, t.keyLen.toNat ≤ i → t.key.read i = 0)

/-- Which error each command raises, by the priority of R830, seen in a state with ERR clear; and at issue (R830). -/
def Obligations.ErrorPriority : Prop :=
  (∀ (s t : State) (i : Instr), s.err = .none → exec i s = .next t →
    t.err =
      match i with
      | .b32char c =>
        if s.b32st = .idle then .seq
        else if s.b32st = .error then .none
        else if lut c = .invalid then .b32Char
        else if s.b32st = .full ∨ (s.b32st = .pad ∧ lut c ≠ .pad) ∨
            (s.b32st = .data ∧ lut c = .pad ∧ s.b32pos ≠ 2 ∧ s.b32pos ≠ 4 ∧ s.b32pos ≠ 5 ∧ s.b32pos ≠ 7) then .b32Pad
        else if s.b32st = .data ∧ lut c ≠ .pad ∧ 3 ≤ s.nbits.toNat ∧ 64 ≤ s.keyLen.toNat then .keyOvf
        else .none
      | .b32end =>
        if s.b32st = .idle then .seq
        else if s.b32st = .pad ∨ (s.b32st = .data ∧ s.b32pos ≠ 0) then .b32Len
        else .none
      | .keybyte _ =>
        if s.b32st ≠ .idle ∨ s.keyValid = false then .seq
        else if 64 ≤ s.keyLen.toNat then .keyOvf
        else .none
      | .hmac => if s.keyValid = false then .noKey else .none
      | .hotp => if s.keyValid = false then .noKey else .none
      | _ => .none) ∧
  (∀ (s : State) (v : Word), s.err = .none →
    (s.busy = true → v ≠ 0x00000001 → ∃ t, issue s v = .next t ∧ t.ovr = true ∧ t.err = .none) ∧
    (s.busy = false → legal v = false → ∃ t, issue s v = .next t ∧ t.err = .illegalCmd))

/-- "Every command behaves the same whether ERR is 0 or not (only the latch's recording differs)" (R811). -/
def Obligations.ErrDoesNotSteer : Prop :=
  ∀ (i : Instr) (s : State) (e : ErrCode),
    mapNext (fun t => { t with err := .none }) (exec i { s with err := e })
      = mapNext (fun t => { t with err := .none }) (exec i s)

/-- What the hidden SHA-1 and modulo registers hold is never seen: two states that differ only there step alike, bus
responses included (10_state.md R116). -/
def Obligations.HiddenRegistersUnseen : Prop :=
  ∀ (s t : State) (u : ShaUnit) (v : ModUnit), step s = .next t →
    ∃ t', step { s with sha := u, modu := v } = .next t' ∧ eraseHidden t' = eraseHidden t
end

