-- ==== Sys2Proof/Laws/Decode.lean ====
section
/-! SUPPORT. What the decoder can answer, said once. -/

namespace Sys2Proof

/-- Everything a word can decode to: its row matches and the command is that row's (30_encoding.md R303). -/
theorem decode_cases {w : Word} {i : Instr} (h : decode w = .ok i) :
    (w = 0x00000000 ∧ i = .nop) ∨ (w = 0x00000001 ∧ i = .srst) ∨ (w = 0x00000002 ∧ i = .clrerr) ∨
    (w = 0x00000010 ∧ i = .b32begin) ∨ (w &&& 0xFFFF00FF = 0x00000011 ∧ i = .b32char (imm8Field w)) ∨
    (w = 0x00000012 ∧ i = .b32end) ∨ (w = 0x00000018 ∧ i = .keyclr) ∨
    (w &&& 0xFFFF00FF = 0x00000019 ∧ i = .keybyte (imm8Field w)) ∨ (w = 0x00000020 ∧ i = .hmac) ∨
    (w = 0x00000021 ∧ i = .hotp) ∨ (w = 0x00000030 ∧ i = .trunc) ∨ (w = 0x00000031 ∧ i = .mod) := by
  have full : ∀ x : Word, x &&& 0xFFFFFFFF = x := fun x => BitVec.and_allOnes
  unfold decode at h
  split at h
  · next r hr =>
    have hi := Except.ok.inj h
    have hm := List.mem_of_find?_eq_some hr
    have hc := List.find?_some hr
    simp only [Row.covers, beq_iff_eq] at hc
    simp only [rows, List.mem_cons, List.not_mem_nil, or_false] at hm
    rcases hm with rfl | rfl | rfl | rfl | rfl | rfl | rfl | rfl | rfl | rfl | rfl | rfl <;>
      simp only [full] at hc <;> subst hi <;> simpa using hc
  · cases h

/-- A word is legal exactly when it decodes (R305). -/
theorem legal_iff_decode (w : Word) : legal w = true ↔ ∃ i, decode w = .ok i := by
  unfold legal decode
  rw [List.any_eq_true]
  constructor
  · rintro ⟨r, hr, hc⟩
    cases hf : rows.find? (·.covers w) with
    | some r' => exact ⟨_, rfl⟩
    | none => exact absurd hc (List.find?_eq_none.1 hf r hr)
  · rintro ⟨i, hi⟩
    split at hi
    · next r hr => exact ⟨r, List.mem_of_find?_eq_some hr, by simpa using List.find?_some hr⟩
    · cases hi

/-- A word that does not decode is illegal. -/
theorem legal_of_error {w : Word} {e : DecodeRefusal} (h : decode w = .error e) : legal w = false := by
  rw [Bool.eq_false_iff]
  intro hl
  obtain ⟨i, hi⟩ := (legal_iff_decode w).1 hl
  rw [h] at hi
  cases hi

/-- Only the word 0x00000001 is SRST (44_control.md R705). -/
theorem decode_srst {w : Word} (h : decode w = .ok .srst) : w = 0x00000001 := by
  rcases decode_cases h with h | h | h | h | h | h | h | h | h | h | h | h
  all_goals first | exact h.1 | exact absurd h.2 (by simp)

theorem decode_srstWord : decode 0x00000001 = .ok .srst := by decide

/-- A word made of all its bits. -/
theorem tableWord_toNat (w : Word) : tableWord 32 w.toNat = w := by
  have := w.isLt
  apply BitVec.eq_of_toNat_eq
  simp [tableWord]
  omega

end Sys2Proof
end

