-- ==== Sys2Proof/Laws/Memory.lean ====
section
/-! SUPPORT. The laws of the key buffer's byte storage: read after write, the canonical form is kept, and equal contents
are equal data. -/

namespace Sys2Proof.Machine

@[simp] theorem Memory.read_nil (a : Nat) : Memory.read [] a = 0 := rfl

@[simp] theorem Memory.wf_nil : Memory.wf [] = true := rfl

theorem Memory.read_cons (k : Nat) (b : Byte) (m : Memory) (a : Nat) :
    Memory.read ((k, b) :: m) a = if k = a then b else Memory.read m a := rfl

/-- What the canonical form says of a list with a first cell. -/
theorem Memory.wfFrom_cons {lo k : Nat} {b : Byte} {m : Memory} :
    Memory.wfFrom lo ((k, b) :: m) = true ↔ lo ≤ k ∧ k < 64 ∧ b ≠ 0 ∧ Memory.wfFrom (k + 1) m = true := by
  simp only [Memory.wfFrom, Bool.and_eq_true, decide_eq_true_eq, bne_iff_ne, and_assoc]
  exact Iff.rfl

/-- A canonical form from `lo` on is one from any lower index on. -/
theorem Memory.wfFrom_mono {lo lo' : Nat} {m : Memory} (h : lo' ≤ lo) (hm : Memory.wfFrom lo m = true) :
    Memory.wfFrom lo' m = true := by
  cases m with
  | nil => rfl
  | cons c m =>
    obtain ⟨k, b⟩ := c
    rw [Memory.wfFrom_cons] at hm ⊢
    exact ⟨by omega, hm.2⟩

/-- An index below the cells of a canonical form is unlisted. -/
theorem Memory.read_below {lo : Nat} {m : Memory} (hm : Memory.wfFrom lo m = true) {a : Nat} (ha : a < lo) :
    Memory.read m a = 0 := by
  induction m generalizing lo with
  | nil => rfl
  | cons c m ih =>
    obtain ⟨k, b⟩ := c
    rw [Memory.wfFrom_cons] at hm
    rw [Memory.read_cons, if_neg (by omega)]
    exact ih hm.2.2.2 (by omega)

theorem Memory.read_consCell (a : Nat) (b : Byte) (m : Memory) (i : Nat) (h : i ≠ a) :
    Memory.read (Memory.cons a b m) i = Memory.read m i := by
  unfold Memory.cons
  split
  · rfl
  · rw [Memory.read_cons, if_neg (Ne.symm h)]

/-- A write leaves every other byte alone. -/
theorem Memory.read_write_other (m : Memory) (a : Nat) (b : Byte) (i : Nat) (h : i ≠ a) :
    (m.write a b).read i = m.read i := by
  induction m with
  | nil => exact Memory.read_consCell a b [] i h
  | cons c m ih =>
    obtain ⟨k, d⟩ := c
    unfold Memory.write
    split
    · exact Memory.read_consCell a b _ i h
    · split
      · next hk => rw [Memory.read_consCell a b _ i h, Memory.read_cons, if_neg (by omega)]
      · rw [Memory.read_cons, Memory.read_cons, ih]

/-- A read after a write to the same index gives the byte written. -/
theorem Memory.read_write_same {lo : Nat} {m : Memory} (hm : Memory.wfFrom lo m = true) (a : Nat) (b : Byte) :
    (m.write a b).read a = b := by
  induction m generalizing lo with
  | nil =>
    unfold Memory.write Memory.cons
    split
    · next h => exact h.symm
    · exact if_pos rfl
  | cons c m ih =>
    obtain ⟨k, d⟩ := c
    rw [Memory.wfFrom_cons] at hm
    unfold Memory.write
    split
    · next hk =>
      unfold Memory.cons
      split
      · next hb =>
        rw [Memory.read_cons, if_neg (by omega), Memory.read_below hm.2.2.2 (by omega)]
        exact hb.symm
      · exact if_pos rfl
    · split
      · next hk =>
        unfold Memory.cons
        split
        · next hb => rw [Memory.read_below hm.2.2.2 (by omega)]; exact hb.symm
        · exact if_pos rfl
      · next h1 h2 => rw [Memory.read_cons, if_neg (by omega)]; exact ih hm.2.2.2

theorem Memory.wfFrom_consCell {lo a : Nat} {b : Byte} {m : Memory} (hlo : lo ≤ a) (ha : a < 64)
    (hm : Memory.wfFrom (a + 1) m = true) : Memory.wfFrom lo (Memory.cons a b m) = true := by
  unfold Memory.cons
  split
  · exact Memory.wfFrom_mono (by omega) hm
  · next hb => exact Memory.wfFrom_cons.2 ⟨hlo, ha, hb, hm⟩

/-- A write inside the key buffer keeps the canonical form. -/
theorem Memory.wfFrom_write {lo a : Nat} {b : Byte} {m : Memory} (hlo : lo ≤ a) (ha : a < 64)
    (hm : Memory.wfFrom lo m = true) : Memory.wfFrom lo (m.write a b) = true := by
  induction m generalizing lo with
  | nil => exact Memory.wfFrom_consCell hlo ha rfl
  | cons c m ih =>
    obtain ⟨k, d⟩ := c
    have hc := Memory.wfFrom_cons.1 hm
    unfold Memory.write
    split
    · next hk => exact Memory.wfFrom_consCell hlo ha (Memory.wfFrom_cons.2 ⟨by omega, hc.2⟩)
    · split
      · next hk => subst hk; exact Memory.wfFrom_consCell hlo ha hc.2.2.2
      · next h1 h2 => exact Memory.wfFrom_cons.2 ⟨hc.1, hc.2.1, hc.2.2.1, ih (by omega) hc.2.2.2⟩

/-- A write inside the key buffer keeps the canonical form. -/
theorem Memory.wf_write {a : Nat} {b : Byte} {m : Memory} (ha : a < 64) (hm : m.wf = true) :
    (m.write a b).wf = true := Memory.wfFrom_write (Nat.zero_le _) ha hm

/-- An index above every cell is unlisted. -/
theorem Memory.read_above {m : Memory} {n : Nat} (h : m.all (·.1 < n) = true) {i : Nat} (hi : n ≤ i) : m.read i = 0 := by
  induction m with
  | nil => rfl
  | cons c m ih =>
    obtain ⟨k, b⟩ := c
    simp only [List.all_cons, Bool.and_eq_true, decide_eq_true_eq] at h
    rw [Memory.read_cons, if_neg (by omega)]
    exact ih h.2

/-- Equal contents in canonical form are equal data. -/
theorem Memory.ext_of_read {lo : Nat} {m n : Memory} (hm : Memory.wfFrom lo m = true) (hn : Memory.wfFrom lo n = true)
    (h : ∀ a, m.read a = n.read a) : m = n := by
  induction m generalizing lo n with
  | nil =>
    cases n with
    | nil => rfl
    | cons c n =>
      obtain ⟨k, b⟩ := c
      have hk := h k
      rw [Memory.read_cons, if_pos rfl] at hk
      exact absurd hk.symm (Memory.wfFrom_cons.1 hn).2.2.1
  | cons c m ih =>
    obtain ⟨k, b⟩ := c
    have hm' := Memory.wfFrom_cons.1 hm
    cases n with
    | nil =>
      have hk := h k
      rw [Memory.read_cons, if_pos rfl] at hk
      exact absurd hk hm'.2.2.1
    | cons c' n =>
      obtain ⟨k', b'⟩ := c'
      have hn' := Memory.wfFrom_cons.1 hn
      have hkk : k = k' := by
        rcases Nat.lt_trichotomy k k' with hlt | heq | hgt
        · have hk := h k
          rw [Memory.read_cons, if_pos rfl, Memory.read_cons, if_neg (by omega),
            Memory.read_below hn'.2.2.2 (by omega)] at hk
          exact absurd hk hm'.2.2.1
        · exact heq
        · have hk := h k'
          rw [Memory.read_cons, if_neg (by omega), Memory.read_cons, if_pos rfl,
            Memory.read_below hm'.2.2.2 (by omega)] at hk
          exact absurd hk.symm hn'.2.2.1
      subst hkk
      have hb := h k
      rw [Memory.read_cons, if_pos rfl, Memory.read_cons, if_pos rfl] at hb
      subst hb
      have hrest : m = n := by
        refine ih hm'.2.2.2 hn'.2.2.2 fun a => ?_
        have ha := h a
        rw [Memory.read_cons, Memory.read_cons] at ha
        by_cases hka : k = a
        · rw [Memory.read_below hm'.2.2.2 (by omega), Memory.read_below hn'.2.2.2 (by omega)]
        · rwa [if_neg hka, if_neg hka] at ha
      rw [hrest]

end Sys2Proof.Machine
end

