-- ==== Sys2Proof/Laws/State.lean ====
section
/-! SUPPORT. One lemma per field of State per named update of Machine/Ops.lean, true by rfl, so that no proof unfolds a
record update. They are proved `by rfl`, not `:= rfl`, so that simp rewrites with them and leaves no definitional
comparison of two states, with a digest in one of them, to the kernel. -/

namespace Sys2Proof.Machine

variable (s : State)

@[simp] theorem raiseError_busy (c : ErrCode) : (raiseError s c).busy = s.busy := by rfl
@[simp] theorem raiseError_keyValid (c : ErrCode) : (raiseError s c).keyValid = s.keyValid := by rfl
@[simp] theorem raiseError_ovr (c : ErrCode) : (raiseError s c).ovr = s.ovr := by rfl
@[simp] theorem raiseError_b32st (c : ErrCode) : (raiseError s c).b32st = s.b32st := by rfl
@[simp] theorem raiseError_err (c : ErrCode) : (raiseError s c).err = if s.err = .none then c else s.err := by rfl
@[simp] theorem raiseError_b32pos (c : ErrCode) : (raiseError s c).b32pos = s.b32pos := by rfl
@[simp] theorem raiseError_ctrLo (c : ErrCode) : (raiseError s c).ctrLo = s.ctrLo := by rfl
@[simp] theorem raiseError_ctrHi (c : ErrCode) : (raiseError s c).ctrHi = s.ctrHi := by rfl
@[simp] theorem raiseError_hotpVal (c : ErrCode) : (raiseError s c).hotpVal = s.hotpVal := by rfl
@[simp] theorem raiseError_code (c : ErrCode) : (raiseError s c).code = s.code := by rfl
@[simp] theorem raiseError_codeBcd (c : ErrCode) : (raiseError s c).codeBcd = s.codeBcd := by rfl
@[simp] theorem raiseError_keyLen (c : ErrCode) : (raiseError s c).keyLen = s.keyLen := by rfl
@[simp] theorem raiseError_mac (c : ErrCode) : (raiseError s c).mac = s.mac := by rfl
@[simp] theorem raiseError_key (c : ErrCode) : (raiseError s c).key = s.key := by rfl
@[simp] theorem raiseError_pend (c : ErrCode) : (raiseError s c).pend = s.pend := by rfl
@[simp] theorem raiseError_acc (c : ErrCode) : (raiseError s c).acc = s.acc := by rfl
@[simp] theorem raiseError_nbits (c : ErrCode) : (raiseError s c).nbits = s.nbits := by rfl
@[simp] theorem raiseError_sha (c : ErrCode) : (raiseError s c).sha = s.sha := by rfl
@[simp] theorem raiseError_modu (c : ErrCode) : (raiseError s c).modu = s.modu := by rfl
@[simp] theorem raiseError_script (c : ErrCode) : (raiseError s c).script = s.script := by rfl
@[simp] theorem raiseError_resp (c : ErrCode) : (raiseError s c).resp = s.resp := by rfl
@[simp] theorem raiseError_freeCount (c : ErrCode) : (raiseError s c).freeCount = s.freeCount := by rfl

@[simp] theorem clearErrors_busy : (clearErrors s).busy = s.busy := by rfl
@[simp] theorem clearErrors_keyValid : (clearErrors s).keyValid = s.keyValid := by rfl
@[simp] theorem clearErrors_ovr : (clearErrors s).ovr = false := by rfl
@[simp] theorem clearErrors_b32st : (clearErrors s).b32st = s.b32st := by rfl
@[simp] theorem clearErrors_err : (clearErrors s).err = .none := by rfl
@[simp] theorem clearErrors_b32pos : (clearErrors s).b32pos = s.b32pos := by rfl
@[simp] theorem clearErrors_ctrLo : (clearErrors s).ctrLo = s.ctrLo := by rfl
@[simp] theorem clearErrors_ctrHi : (clearErrors s).ctrHi = s.ctrHi := by rfl
@[simp] theorem clearErrors_hotpVal : (clearErrors s).hotpVal = s.hotpVal := by rfl
@[simp] theorem clearErrors_code : (clearErrors s).code = s.code := by rfl
@[simp] theorem clearErrors_codeBcd : (clearErrors s).codeBcd = s.codeBcd := by rfl
@[simp] theorem clearErrors_keyLen : (clearErrors s).keyLen = s.keyLen := by rfl
@[simp] theorem clearErrors_mac : (clearErrors s).mac = s.mac := by rfl
@[simp] theorem clearErrors_key : (clearErrors s).key = s.key := by rfl
@[simp] theorem clearErrors_pend : (clearErrors s).pend = s.pend := by rfl
@[simp] theorem clearErrors_acc : (clearErrors s).acc = s.acc := by rfl
@[simp] theorem clearErrors_nbits : (clearErrors s).nbits = s.nbits := by rfl
@[simp] theorem clearErrors_sha : (clearErrors s).sha = s.sha := by rfl
@[simp] theorem clearErrors_modu : (clearErrors s).modu = s.modu := by rfl
@[simp] theorem clearErrors_script : (clearErrors s).script = s.script := by rfl
@[simp] theorem clearErrors_resp : (clearErrors s).resp = s.resp := by rfl
@[simp] theorem clearErrors_freeCount : (clearErrors s).freeCount = s.freeCount := by rfl

@[simp] theorem setOvr_busy : (setOvr s).busy = s.busy := by rfl
@[simp] theorem setOvr_keyValid : (setOvr s).keyValid = s.keyValid := by rfl
@[simp] theorem setOvr_ovr : (setOvr s).ovr = true := by rfl
@[simp] theorem setOvr_b32st : (setOvr s).b32st = s.b32st := by rfl
@[simp] theorem setOvr_err : (setOvr s).err = s.err := by rfl
@[simp] theorem setOvr_b32pos : (setOvr s).b32pos = s.b32pos := by rfl
@[simp] theorem setOvr_ctrLo : (setOvr s).ctrLo = s.ctrLo := by rfl
@[simp] theorem setOvr_ctrHi : (setOvr s).ctrHi = s.ctrHi := by rfl
@[simp] theorem setOvr_hotpVal : (setOvr s).hotpVal = s.hotpVal := by rfl
@[simp] theorem setOvr_code : (setOvr s).code = s.code := by rfl
@[simp] theorem setOvr_codeBcd : (setOvr s).codeBcd = s.codeBcd := by rfl
@[simp] theorem setOvr_keyLen : (setOvr s).keyLen = s.keyLen := by rfl
@[simp] theorem setOvr_mac : (setOvr s).mac = s.mac := by rfl
@[simp] theorem setOvr_key : (setOvr s).key = s.key := by rfl
@[simp] theorem setOvr_pend : (setOvr s).pend = s.pend := by rfl
@[simp] theorem setOvr_acc : (setOvr s).acc = s.acc := by rfl
@[simp] theorem setOvr_nbits : (setOvr s).nbits = s.nbits := by rfl
@[simp] theorem setOvr_sha : (setOvr s).sha = s.sha := by rfl
@[simp] theorem setOvr_modu : (setOvr s).modu = s.modu := by rfl
@[simp] theorem setOvr_script : (setOvr s).script = s.script := by rfl
@[simp] theorem setOvr_resp : (setOvr s).resp = s.resp := by rfl
@[simp] theorem setOvr_freeCount : (setOvr s).freeCount = s.freeCount := by rfl

@[simp] theorem clearKey_busy : (clearKey s).busy = s.busy := by rfl
@[simp] theorem clearKey_keyValid : (clearKey s).keyValid = s.keyValid := by rfl
@[simp] theorem clearKey_ovr : (clearKey s).ovr = s.ovr := by rfl
@[simp] theorem clearKey_b32st : (clearKey s).b32st = s.b32st := by rfl
@[simp] theorem clearKey_err : (clearKey s).err = s.err := by rfl
@[simp] theorem clearKey_b32pos : (clearKey s).b32pos = s.b32pos := by rfl
@[simp] theorem clearKey_ctrLo : (clearKey s).ctrLo = s.ctrLo := by rfl
@[simp] theorem clearKey_ctrHi : (clearKey s).ctrHi = s.ctrHi := by rfl
@[simp] theorem clearKey_hotpVal : (clearKey s).hotpVal = s.hotpVal := by rfl
@[simp] theorem clearKey_code : (clearKey s).code = s.code := by rfl
@[simp] theorem clearKey_codeBcd : (clearKey s).codeBcd = s.codeBcd := by rfl
@[simp] theorem clearKey_keyLen : (clearKey s).keyLen = 0 := by rfl
@[simp] theorem clearKey_mac : (clearKey s).mac = s.mac := by rfl
@[simp] theorem clearKey_key : (clearKey s).key = [] := by rfl
@[simp] theorem clearKey_pend : (clearKey s).pend = s.pend := by rfl
@[simp] theorem clearKey_acc : (clearKey s).acc = s.acc := by rfl
@[simp] theorem clearKey_nbits : (clearKey s).nbits = s.nbits := by rfl
@[simp] theorem clearKey_sha : (clearKey s).sha = s.sha := by rfl
@[simp] theorem clearKey_modu : (clearKey s).modu = s.modu := by rfl
@[simp] theorem clearKey_script : (clearKey s).script = s.script := by rfl
@[simp] theorem clearKey_resp : (clearKey s).resp = s.resp := by rfl
@[simp] theorem clearKey_freeCount : (clearKey s).freeCount = s.freeCount := by rfl

@[simp] theorem storeKeyByte_busy (b : Byte) : (storeKeyByte s b).busy = s.busy := by rfl
@[simp] theorem storeKeyByte_keyValid (b : Byte) : (storeKeyByte s b).keyValid = s.keyValid := by rfl
@[simp] theorem storeKeyByte_ovr (b : Byte) : (storeKeyByte s b).ovr = s.ovr := by rfl
@[simp] theorem storeKeyByte_b32st (b : Byte) : (storeKeyByte s b).b32st = s.b32st := by rfl
@[simp] theorem storeKeyByte_err (b : Byte) : (storeKeyByte s b).err = s.err := by rfl
@[simp] theorem storeKeyByte_b32pos (b : Byte) : (storeKeyByte s b).b32pos = s.b32pos := by rfl
@[simp] theorem storeKeyByte_ctrLo (b : Byte) : (storeKeyByte s b).ctrLo = s.ctrLo := by rfl
@[simp] theorem storeKeyByte_ctrHi (b : Byte) : (storeKeyByte s b).ctrHi = s.ctrHi := by rfl
@[simp] theorem storeKeyByte_hotpVal (b : Byte) : (storeKeyByte s b).hotpVal = s.hotpVal := by rfl
@[simp] theorem storeKeyByte_code (b : Byte) : (storeKeyByte s b).code = s.code := by rfl
@[simp] theorem storeKeyByte_codeBcd (b : Byte) : (storeKeyByte s b).codeBcd = s.codeBcd := by rfl
@[simp] theorem storeKeyByte_keyLen (b : Byte) : (storeKeyByte s b).keyLen = s.keyLen + 1 := by rfl
@[simp] theorem storeKeyByte_mac (b : Byte) : (storeKeyByte s b).mac = s.mac := by rfl
@[simp] theorem storeKeyByte_key (b : Byte) : (storeKeyByte s b).key = s.key.write s.keyLen.toNat b := by rfl
@[simp] theorem storeKeyByte_pend (b : Byte) : (storeKeyByte s b).pend = s.pend := by rfl
@[simp] theorem storeKeyByte_acc (b : Byte) : (storeKeyByte s b).acc = s.acc := by rfl
@[simp] theorem storeKeyByte_nbits (b : Byte) : (storeKeyByte s b).nbits = s.nbits := by rfl
@[simp] theorem storeKeyByte_sha (b : Byte) : (storeKeyByte s b).sha = s.sha := by rfl
@[simp] theorem storeKeyByte_modu (b : Byte) : (storeKeyByte s b).modu = s.modu := by rfl
@[simp] theorem storeKeyByte_script (b : Byte) : (storeKeyByte s b).script = s.script := by rfl
@[simp] theorem storeKeyByte_resp (b : Byte) : (storeKeyByte s b).resp = s.resp := by rfl
@[simp] theorem storeKeyByte_freeCount (b : Byte) : (storeKeyByte s b).freeCount = s.freeCount := by rfl

@[simp] theorem setKeyValid_busy (v : Bool) : (setKeyValid s v).busy = s.busy := by rfl
@[simp] theorem setKeyValid_keyValid (v : Bool) : (setKeyValid s v).keyValid = v := by rfl
@[simp] theorem setKeyValid_ovr (v : Bool) : (setKeyValid s v).ovr = s.ovr := by rfl
@[simp] theorem setKeyValid_b32st (v : Bool) : (setKeyValid s v).b32st = s.b32st := by rfl
@[simp] theorem setKeyValid_err (v : Bool) : (setKeyValid s v).err = s.err := by rfl
@[simp] theorem setKeyValid_b32pos (v : Bool) : (setKeyValid s v).b32pos = s.b32pos := by rfl
@[simp] theorem setKeyValid_ctrLo (v : Bool) : (setKeyValid s v).ctrLo = s.ctrLo := by rfl
@[simp] theorem setKeyValid_ctrHi (v : Bool) : (setKeyValid s v).ctrHi = s.ctrHi := by rfl
@[simp] theorem setKeyValid_hotpVal (v : Bool) : (setKeyValid s v).hotpVal = s.hotpVal := by rfl
@[simp] theorem setKeyValid_code (v : Bool) : (setKeyValid s v).code = s.code := by rfl
@[simp] theorem setKeyValid_codeBcd (v : Bool) : (setKeyValid s v).codeBcd = s.codeBcd := by rfl
@[simp] theorem setKeyValid_keyLen (v : Bool) : (setKeyValid s v).keyLen = s.keyLen := by rfl
@[simp] theorem setKeyValid_mac (v : Bool) : (setKeyValid s v).mac = s.mac := by rfl
@[simp] theorem setKeyValid_key (v : Bool) : (setKeyValid s v).key = s.key := by rfl
@[simp] theorem setKeyValid_pend (v : Bool) : (setKeyValid s v).pend = s.pend := by rfl
@[simp] theorem setKeyValid_acc (v : Bool) : (setKeyValid s v).acc = s.acc := by rfl
@[simp] theorem setKeyValid_nbits (v : Bool) : (setKeyValid s v).nbits = s.nbits := by rfl
@[simp] theorem setKeyValid_sha (v : Bool) : (setKeyValid s v).sha = s.sha := by rfl
@[simp] theorem setKeyValid_modu (v : Bool) : (setKeyValid s v).modu = s.modu := by rfl
@[simp] theorem setKeyValid_script (v : Bool) : (setKeyValid s v).script = s.script := by rfl
@[simp] theorem setKeyValid_resp (v : Bool) : (setKeyValid s v).resp = s.resp := by rfl
@[simp] theorem setKeyValid_freeCount (v : Bool) : (setKeyValid s v).freeCount = s.freeCount := by rfl

@[simp] theorem setDecoder_busy (st : DecoderState) : (setDecoder s st).busy = s.busy := by rfl
@[simp] theorem setDecoder_keyValid (st : DecoderState) : (setDecoder s st).keyValid = s.keyValid := by rfl
@[simp] theorem setDecoder_ovr (st : DecoderState) : (setDecoder s st).ovr = s.ovr := by rfl
@[simp] theorem setDecoder_b32st (st : DecoderState) : (setDecoder s st).b32st = st := by rfl
@[simp] theorem setDecoder_err (st : DecoderState) : (setDecoder s st).err = s.err := by rfl
@[simp] theorem setDecoder_b32pos (st : DecoderState) : (setDecoder s st).b32pos = s.b32pos := by rfl
@[simp] theorem setDecoder_ctrLo (st : DecoderState) : (setDecoder s st).ctrLo = s.ctrLo := by rfl
@[simp] theorem setDecoder_ctrHi (st : DecoderState) : (setDecoder s st).ctrHi = s.ctrHi := by rfl
@[simp] theorem setDecoder_hotpVal (st : DecoderState) : (setDecoder s st).hotpVal = s.hotpVal := by rfl
@[simp] theorem setDecoder_code (st : DecoderState) : (setDecoder s st).code = s.code := by rfl
@[simp] theorem setDecoder_codeBcd (st : DecoderState) : (setDecoder s st).codeBcd = s.codeBcd := by rfl
@[simp] theorem setDecoder_keyLen (st : DecoderState) : (setDecoder s st).keyLen = s.keyLen := by rfl
@[simp] theorem setDecoder_mac (st : DecoderState) : (setDecoder s st).mac = s.mac := by rfl
@[simp] theorem setDecoder_key (st : DecoderState) : (setDecoder s st).key = s.key := by rfl
@[simp] theorem setDecoder_pend (st : DecoderState) : (setDecoder s st).pend = s.pend := by rfl
@[simp] theorem setDecoder_acc (st : DecoderState) : (setDecoder s st).acc = s.acc := by rfl
@[simp] theorem setDecoder_nbits (st : DecoderState) : (setDecoder s st).nbits = s.nbits := by rfl
@[simp] theorem setDecoder_sha (st : DecoderState) : (setDecoder s st).sha = s.sha := by rfl
@[simp] theorem setDecoder_modu (st : DecoderState) : (setDecoder s st).modu = s.modu := by rfl
@[simp] theorem setDecoder_script (st : DecoderState) : (setDecoder s st).script = s.script := by rfl
@[simp] theorem setDecoder_resp (st : DecoderState) : (setDecoder s st).resp = s.resp := by rfl
@[simp] theorem setDecoder_freeCount (st : DecoderState) : (setDecoder s st).freeCount = s.freeCount := by rfl

@[simp] theorem advancePos_busy : (advancePos s).busy = s.busy := by rfl
@[simp] theorem advancePos_keyValid : (advancePos s).keyValid = s.keyValid := by rfl
@[simp] theorem advancePos_ovr : (advancePos s).ovr = s.ovr := by rfl
@[simp] theorem advancePos_b32st : (advancePos s).b32st = s.b32st := by rfl
@[simp] theorem advancePos_err : (advancePos s).err = s.err := by rfl
@[simp] theorem advancePos_b32pos : (advancePos s).b32pos = s.b32pos + 1 := by rfl
@[simp] theorem advancePos_ctrLo : (advancePos s).ctrLo = s.ctrLo := by rfl
@[simp] theorem advancePos_ctrHi : (advancePos s).ctrHi = s.ctrHi := by rfl
@[simp] theorem advancePos_hotpVal : (advancePos s).hotpVal = s.hotpVal := by rfl
@[simp] theorem advancePos_code : (advancePos s).code = s.code := by rfl
@[simp] theorem advancePos_codeBcd : (advancePos s).codeBcd = s.codeBcd := by rfl
@[simp] theorem advancePos_keyLen : (advancePos s).keyLen = s.keyLen := by rfl
@[simp] theorem advancePos_mac : (advancePos s).mac = s.mac := by rfl
@[simp] theorem advancePos_key : (advancePos s).key = s.key := by rfl
@[simp] theorem advancePos_pend : (advancePos s).pend = s.pend := by rfl
@[simp] theorem advancePos_acc : (advancePos s).acc = s.acc := by rfl
@[simp] theorem advancePos_nbits : (advancePos s).nbits = s.nbits := by rfl
@[simp] theorem advancePos_sha : (advancePos s).sha = s.sha := by rfl
@[simp] theorem advancePos_modu : (advancePos s).modu = s.modu := by rfl
@[simp] theorem advancePos_script : (advancePos s).script = s.script := by rfl
@[simp] theorem advancePos_resp : (advancePos s).resp = s.resp := by rfl
@[simp] theorem advancePos_freeCount : (advancePos s).freeCount = s.freeCount := by rfl

@[simp] theorem setShifter_busy (a : BitVec 12) (n : BitVec 3) : (setShifter s a n).busy = s.busy := by rfl
@[simp] theorem setShifter_keyValid (a : BitVec 12) (n : BitVec 3) : (setShifter s a n).keyValid = s.keyValid := by rfl
@[simp] theorem setShifter_ovr (a : BitVec 12) (n : BitVec 3) : (setShifter s a n).ovr = s.ovr := by rfl
@[simp] theorem setShifter_b32st (a : BitVec 12) (n : BitVec 3) : (setShifter s a n).b32st = s.b32st := by rfl
@[simp] theorem setShifter_err (a : BitVec 12) (n : BitVec 3) : (setShifter s a n).err = s.err := by rfl
@[simp] theorem setShifter_b32pos (a : BitVec 12) (n : BitVec 3) : (setShifter s a n).b32pos = s.b32pos := by rfl
@[simp] theorem setShifter_ctrLo (a : BitVec 12) (n : BitVec 3) : (setShifter s a n).ctrLo = s.ctrLo := by rfl
@[simp] theorem setShifter_ctrHi (a : BitVec 12) (n : BitVec 3) : (setShifter s a n).ctrHi = s.ctrHi := by rfl
@[simp] theorem setShifter_hotpVal (a : BitVec 12) (n : BitVec 3) : (setShifter s a n).hotpVal = s.hotpVal := by rfl
@[simp] theorem setShifter_code (a : BitVec 12) (n : BitVec 3) : (setShifter s a n).code = s.code := by rfl
@[simp] theorem setShifter_codeBcd (a : BitVec 12) (n : BitVec 3) : (setShifter s a n).codeBcd = s.codeBcd := by rfl
@[simp] theorem setShifter_keyLen (a : BitVec 12) (n : BitVec 3) : (setShifter s a n).keyLen = s.keyLen := by rfl
@[simp] theorem setShifter_mac (a : BitVec 12) (n : BitVec 3) : (setShifter s a n).mac = s.mac := by rfl
@[simp] theorem setShifter_key (a : BitVec 12) (n : BitVec 3) : (setShifter s a n).key = s.key := by rfl
@[simp] theorem setShifter_pend (a : BitVec 12) (n : BitVec 3) : (setShifter s a n).pend = s.pend := by rfl
@[simp] theorem setShifter_acc (a : BitVec 12) (n : BitVec 3) : (setShifter s a n).acc = a := by rfl
@[simp] theorem setShifter_nbits (a : BitVec 12) (n : BitVec 3) : (setShifter s a n).nbits = n := by rfl
@[simp] theorem setShifter_sha (a : BitVec 12) (n : BitVec 3) : (setShifter s a n).sha = s.sha := by rfl
@[simp] theorem setShifter_modu (a : BitVec 12) (n : BitVec 3) : (setShifter s a n).modu = s.modu := by rfl
@[simp] theorem setShifter_script (a : BitVec 12) (n : BitVec 3) : (setShifter s a n).script = s.script := by rfl
@[simp] theorem setShifter_resp (a : BitVec 12) (n : BitVec 3) : (setShifter s a n).resp = s.resp := by rfl
@[simp] theorem setShifter_freeCount (a : BitVec 12) (n : BitVec 3) : (setShifter s a n).freeCount = s.freeCount := by rfl

@[simp] theorem restartDecoder_busy (st : DecoderState) : (restartDecoder s st).busy = s.busy := by rfl
@[simp] theorem restartDecoder_keyValid (st : DecoderState) : (restartDecoder s st).keyValid = s.keyValid := by rfl
@[simp] theorem restartDecoder_ovr (st : DecoderState) : (restartDecoder s st).ovr = s.ovr := by rfl
@[simp] theorem restartDecoder_b32st (st : DecoderState) : (restartDecoder s st).b32st = st := by rfl
@[simp] theorem restartDecoder_err (st : DecoderState) : (restartDecoder s st).err = s.err := by rfl
@[simp] theorem restartDecoder_b32pos (st : DecoderState) : (restartDecoder s st).b32pos = 0 := by rfl
@[simp] theorem restartDecoder_ctrLo (st : DecoderState) : (restartDecoder s st).ctrLo = s.ctrLo := by rfl
@[simp] theorem restartDecoder_ctrHi (st : DecoderState) : (restartDecoder s st).ctrHi = s.ctrHi := by rfl
@[simp] theorem restartDecoder_hotpVal (st : DecoderState) : (restartDecoder s st).hotpVal = s.hotpVal := by rfl
@[simp] theorem restartDecoder_code (st : DecoderState) : (restartDecoder s st).code = s.code := by rfl
@[simp] theorem restartDecoder_codeBcd (st : DecoderState) : (restartDecoder s st).codeBcd = s.codeBcd := by rfl
@[simp] theorem restartDecoder_keyLen (st : DecoderState) : (restartDecoder s st).keyLen = s.keyLen := by rfl
@[simp] theorem restartDecoder_mac (st : DecoderState) : (restartDecoder s st).mac = s.mac := by rfl
@[simp] theorem restartDecoder_key (st : DecoderState) : (restartDecoder s st).key = s.key := by rfl
@[simp] theorem restartDecoder_pend (st : DecoderState) : (restartDecoder s st).pend = s.pend := by rfl
@[simp] theorem restartDecoder_acc (st : DecoderState) : (restartDecoder s st).acc = 0 := by rfl
@[simp] theorem restartDecoder_nbits (st : DecoderState) : (restartDecoder s st).nbits = 0 := by rfl
@[simp] theorem restartDecoder_sha (st : DecoderState) : (restartDecoder s st).sha = s.sha := by rfl
@[simp] theorem restartDecoder_modu (st : DecoderState) : (restartDecoder s st).modu = s.modu := by rfl
@[simp] theorem restartDecoder_script (st : DecoderState) : (restartDecoder s st).script = s.script := by rfl
@[simp] theorem restartDecoder_resp (st : DecoderState) : (restartDecoder s st).resp = s.resp := by rfl
@[simp] theorem restartDecoder_freeCount (st : DecoderState) : (restartDecoder s st).freeCount = s.freeCount := by rfl

@[simp] theorem setMac_busy (d : Digest) : (setMac s d).busy = s.busy := by rfl
@[simp] theorem setMac_keyValid (d : Digest) : (setMac s d).keyValid = s.keyValid := by rfl
@[simp] theorem setMac_ovr (d : Digest) : (setMac s d).ovr = s.ovr := by rfl
@[simp] theorem setMac_b32st (d : Digest) : (setMac s d).b32st = s.b32st := by rfl
@[simp] theorem setMac_err (d : Digest) : (setMac s d).err = s.err := by rfl
@[simp] theorem setMac_b32pos (d : Digest) : (setMac s d).b32pos = s.b32pos := by rfl
@[simp] theorem setMac_ctrLo (d : Digest) : (setMac s d).ctrLo = s.ctrLo := by rfl
@[simp] theorem setMac_ctrHi (d : Digest) : (setMac s d).ctrHi = s.ctrHi := by rfl
@[simp] theorem setMac_hotpVal (d : Digest) : (setMac s d).hotpVal = s.hotpVal := by rfl
@[simp] theorem setMac_code (d : Digest) : (setMac s d).code = s.code := by rfl
@[simp] theorem setMac_codeBcd (d : Digest) : (setMac s d).codeBcd = s.codeBcd := by rfl
@[simp] theorem setMac_keyLen (d : Digest) : (setMac s d).keyLen = s.keyLen := by rfl
@[simp] theorem setMac_mac (d : Digest) : (setMac s d).mac = d := by rfl
@[simp] theorem setMac_key (d : Digest) : (setMac s d).key = s.key := by rfl
@[simp] theorem setMac_pend (d : Digest) : (setMac s d).pend = s.pend := by rfl
@[simp] theorem setMac_acc (d : Digest) : (setMac s d).acc = s.acc := by rfl
@[simp] theorem setMac_nbits (d : Digest) : (setMac s d).nbits = s.nbits := by rfl
@[simp] theorem setMac_sha (d : Digest) : (setMac s d).sha = s.sha := by rfl
@[simp] theorem setMac_modu (d : Digest) : (setMac s d).modu = s.modu := by rfl
@[simp] theorem setMac_script (d : Digest) : (setMac s d).script = s.script := by rfl
@[simp] theorem setMac_resp (d : Digest) : (setMac s d).resp = s.resp := by rfl
@[simp] theorem setMac_freeCount (d : Digest) : (setMac s d).freeCount = s.freeCount := by rfl

@[simp] theorem setHotpVal_busy (v : Word) : (setHotpVal s v).busy = s.busy := by rfl
@[simp] theorem setHotpVal_keyValid (v : Word) : (setHotpVal s v).keyValid = s.keyValid := by rfl
@[simp] theorem setHotpVal_ovr (v : Word) : (setHotpVal s v).ovr = s.ovr := by rfl
@[simp] theorem setHotpVal_b32st (v : Word) : (setHotpVal s v).b32st = s.b32st := by rfl
@[simp] theorem setHotpVal_err (v : Word) : (setHotpVal s v).err = s.err := by rfl
@[simp] theorem setHotpVal_b32pos (v : Word) : (setHotpVal s v).b32pos = s.b32pos := by rfl
@[simp] theorem setHotpVal_ctrLo (v : Word) : (setHotpVal s v).ctrLo = s.ctrLo := by rfl
@[simp] theorem setHotpVal_ctrHi (v : Word) : (setHotpVal s v).ctrHi = s.ctrHi := by rfl
@[simp] theorem setHotpVal_hotpVal (v : Word) : (setHotpVal s v).hotpVal = v := by rfl
@[simp] theorem setHotpVal_code (v : Word) : (setHotpVal s v).code = s.code := by rfl
@[simp] theorem setHotpVal_codeBcd (v : Word) : (setHotpVal s v).codeBcd = s.codeBcd := by rfl
@[simp] theorem setHotpVal_keyLen (v : Word) : (setHotpVal s v).keyLen = s.keyLen := by rfl
@[simp] theorem setHotpVal_mac (v : Word) : (setHotpVal s v).mac = s.mac := by rfl
@[simp] theorem setHotpVal_key (v : Word) : (setHotpVal s v).key = s.key := by rfl
@[simp] theorem setHotpVal_pend (v : Word) : (setHotpVal s v).pend = s.pend := by rfl
@[simp] theorem setHotpVal_acc (v : Word) : (setHotpVal s v).acc = s.acc := by rfl
@[simp] theorem setHotpVal_nbits (v : Word) : (setHotpVal s v).nbits = s.nbits := by rfl
@[simp] theorem setHotpVal_sha (v : Word) : (setHotpVal s v).sha = s.sha := by rfl
@[simp] theorem setHotpVal_modu (v : Word) : (setHotpVal s v).modu = s.modu := by rfl
@[simp] theorem setHotpVal_script (v : Word) : (setHotpVal s v).script = s.script := by rfl
@[simp] theorem setHotpVal_resp (v : Word) : (setHotpVal s v).resp = s.resp := by rfl
@[simp] theorem setHotpVal_freeCount (v : Word) : (setHotpVal s v).freeCount = s.freeCount := by rfl

@[simp] theorem setCode_busy (c b : Word) : (setCode s c b).busy = s.busy := by rfl
@[simp] theorem setCode_keyValid (c b : Word) : (setCode s c b).keyValid = s.keyValid := by rfl
@[simp] theorem setCode_ovr (c b : Word) : (setCode s c b).ovr = s.ovr := by rfl
@[simp] theorem setCode_b32st (c b : Word) : (setCode s c b).b32st = s.b32st := by rfl
@[simp] theorem setCode_err (c b : Word) : (setCode s c b).err = s.err := by rfl
@[simp] theorem setCode_b32pos (c b : Word) : (setCode s c b).b32pos = s.b32pos := by rfl
@[simp] theorem setCode_ctrLo (c b : Word) : (setCode s c b).ctrLo = s.ctrLo := by rfl
@[simp] theorem setCode_ctrHi (c b : Word) : (setCode s c b).ctrHi = s.ctrHi := by rfl
@[simp] theorem setCode_hotpVal (c b : Word) : (setCode s c b).hotpVal = s.hotpVal := by rfl
@[simp] theorem setCode_code (c b : Word) : (setCode s c b).code = c := by rfl
@[simp] theorem setCode_codeBcd (c b : Word) : (setCode s c b).codeBcd = b := by rfl
@[simp] theorem setCode_keyLen (c b : Word) : (setCode s c b).keyLen = s.keyLen := by rfl
@[simp] theorem setCode_mac (c b : Word) : (setCode s c b).mac = s.mac := by rfl
@[simp] theorem setCode_key (c b : Word) : (setCode s c b).key = s.key := by rfl
@[simp] theorem setCode_pend (c b : Word) : (setCode s c b).pend = s.pend := by rfl
@[simp] theorem setCode_acc (c b : Word) : (setCode s c b).acc = s.acc := by rfl
@[simp] theorem setCode_nbits (c b : Word) : (setCode s c b).nbits = s.nbits := by rfl
@[simp] theorem setCode_sha (c b : Word) : (setCode s c b).sha = s.sha := by rfl
@[simp] theorem setCode_modu (c b : Word) : (setCode s c b).modu = s.modu := by rfl
@[simp] theorem setCode_script (c b : Word) : (setCode s c b).script = s.script := by rfl
@[simp] theorem setCode_resp (c b : Word) : (setCode s c b).resp = s.resp := by rfl
@[simp] theorem setCode_freeCount (c b : Word) : (setCode s c b).freeCount = s.freeCount := by rfl

@[simp] theorem releaseSha_busy : (releaseSha s).busy = s.busy := by rfl
@[simp] theorem releaseSha_keyValid : (releaseSha s).keyValid = s.keyValid := by rfl
@[simp] theorem releaseSha_ovr : (releaseSha s).ovr = s.ovr := by rfl
@[simp] theorem releaseSha_b32st : (releaseSha s).b32st = s.b32st := by rfl
@[simp] theorem releaseSha_err : (releaseSha s).err = s.err := by rfl
@[simp] theorem releaseSha_b32pos : (releaseSha s).b32pos = s.b32pos := by rfl
@[simp] theorem releaseSha_ctrLo : (releaseSha s).ctrLo = s.ctrLo := by rfl
@[simp] theorem releaseSha_ctrHi : (releaseSha s).ctrHi = s.ctrHi := by rfl
@[simp] theorem releaseSha_hotpVal : (releaseSha s).hotpVal = s.hotpVal := by rfl
@[simp] theorem releaseSha_code : (releaseSha s).code = s.code := by rfl
@[simp] theorem releaseSha_codeBcd : (releaseSha s).codeBcd = s.codeBcd := by rfl
@[simp] theorem releaseSha_keyLen : (releaseSha s).keyLen = s.keyLen := by rfl
@[simp] theorem releaseSha_mac : (releaseSha s).mac = s.mac := by rfl
@[simp] theorem releaseSha_key : (releaseSha s).key = s.key := by rfl
@[simp] theorem releaseSha_pend : (releaseSha s).pend = s.pend := by rfl
@[simp] theorem releaseSha_acc : (releaseSha s).acc = s.acc := by rfl
@[simp] theorem releaseSha_nbits : (releaseSha s).nbits = s.nbits := by rfl
@[simp] theorem releaseSha_sha : (releaseSha s).sha = freeSha s.freeCount := by rfl
@[simp] theorem releaseSha_modu : (releaseSha s).modu = s.modu := by rfl
@[simp] theorem releaseSha_script : (releaseSha s).script = s.script := by rfl
@[simp] theorem releaseSha_resp : (releaseSha s).resp = s.resp := by rfl
@[simp] theorem releaseSha_freeCount : (releaseSha s).freeCount = s.freeCount + 1 := by rfl

@[simp] theorem releaseModu_busy : (releaseModu s).busy = s.busy := by rfl
@[simp] theorem releaseModu_keyValid : (releaseModu s).keyValid = s.keyValid := by rfl
@[simp] theorem releaseModu_ovr : (releaseModu s).ovr = s.ovr := by rfl
@[simp] theorem releaseModu_b32st : (releaseModu s).b32st = s.b32st := by rfl
@[simp] theorem releaseModu_err : (releaseModu s).err = s.err := by rfl
@[simp] theorem releaseModu_b32pos : (releaseModu s).b32pos = s.b32pos := by rfl
@[simp] theorem releaseModu_ctrLo : (releaseModu s).ctrLo = s.ctrLo := by rfl
@[simp] theorem releaseModu_ctrHi : (releaseModu s).ctrHi = s.ctrHi := by rfl
@[simp] theorem releaseModu_hotpVal : (releaseModu s).hotpVal = s.hotpVal := by rfl
@[simp] theorem releaseModu_code : (releaseModu s).code = s.code := by rfl
@[simp] theorem releaseModu_codeBcd : (releaseModu s).codeBcd = s.codeBcd := by rfl
@[simp] theorem releaseModu_keyLen : (releaseModu s).keyLen = s.keyLen := by rfl
@[simp] theorem releaseModu_mac : (releaseModu s).mac = s.mac := by rfl
@[simp] theorem releaseModu_key : (releaseModu s).key = s.key := by rfl
@[simp] theorem releaseModu_pend : (releaseModu s).pend = s.pend := by rfl
@[simp] theorem releaseModu_acc : (releaseModu s).acc = s.acc := by rfl
@[simp] theorem releaseModu_nbits : (releaseModu s).nbits = s.nbits := by rfl
@[simp] theorem releaseModu_sha : (releaseModu s).sha = s.sha := by rfl
@[simp] theorem releaseModu_modu : (releaseModu s).modu = freeModu s.freeCount := by rfl
@[simp] theorem releaseModu_script : (releaseModu s).script = s.script := by rfl
@[simp] theorem releaseModu_resp : (releaseModu s).resp = s.resp := by rfl
@[simp] theorem releaseModu_freeCount : (releaseModu s).freeCount = s.freeCount + 1 := by rfl

@[simp] theorem accept_busy (v : Word) : (accept s v).busy = true := by rfl
@[simp] theorem accept_keyValid (v : Word) : (accept s v).keyValid = s.keyValid := by rfl
@[simp] theorem accept_ovr (v : Word) : (accept s v).ovr = s.ovr := by rfl
@[simp] theorem accept_b32st (v : Word) : (accept s v).b32st = s.b32st := by rfl
@[simp] theorem accept_err (v : Word) : (accept s v).err = s.err := by rfl
@[simp] theorem accept_b32pos (v : Word) : (accept s v).b32pos = s.b32pos := by rfl
@[simp] theorem accept_ctrLo (v : Word) : (accept s v).ctrLo = s.ctrLo := by rfl
@[simp] theorem accept_ctrHi (v : Word) : (accept s v).ctrHi = s.ctrHi := by rfl
@[simp] theorem accept_hotpVal (v : Word) : (accept s v).hotpVal = s.hotpVal := by rfl
@[simp] theorem accept_code (v : Word) : (accept s v).code = s.code := by rfl
@[simp] theorem accept_codeBcd (v : Word) : (accept s v).codeBcd = s.codeBcd := by rfl
@[simp] theorem accept_keyLen (v : Word) : (accept s v).keyLen = s.keyLen := by rfl
@[simp] theorem accept_mac (v : Word) : (accept s v).mac = s.mac := by rfl
@[simp] theorem accept_key (v : Word) : (accept s v).key = s.key := by rfl
@[simp] theorem accept_pend (v : Word) : (accept s v).pend = v := by rfl
@[simp] theorem accept_acc (v : Word) : (accept s v).acc = s.acc := by rfl
@[simp] theorem accept_nbits (v : Word) : (accept s v).nbits = s.nbits := by rfl
@[simp] theorem accept_sha (v : Word) : (accept s v).sha = s.sha := by rfl
@[simp] theorem accept_modu (v : Word) : (accept s v).modu = s.modu := by rfl
@[simp] theorem accept_script (v : Word) : (accept s v).script = s.script := by rfl
@[simp] theorem accept_resp (v : Word) : (accept s v).resp = s.resp := by rfl
@[simp] theorem accept_freeCount (v : Word) : (accept s v).freeCount = s.freeCount := by rfl

@[simp] theorem finish_busy : (finish s).busy = false := by rfl
@[simp] theorem finish_keyValid : (finish s).keyValid = s.keyValid := by rfl
@[simp] theorem finish_ovr : (finish s).ovr = s.ovr := by rfl
@[simp] theorem finish_b32st : (finish s).b32st = s.b32st := by rfl
@[simp] theorem finish_err : (finish s).err = s.err := by rfl
@[simp] theorem finish_b32pos : (finish s).b32pos = s.b32pos := by rfl
@[simp] theorem finish_ctrLo : (finish s).ctrLo = s.ctrLo := by rfl
@[simp] theorem finish_ctrHi : (finish s).ctrHi = s.ctrHi := by rfl
@[simp] theorem finish_hotpVal : (finish s).hotpVal = s.hotpVal := by rfl
@[simp] theorem finish_code : (finish s).code = s.code := by rfl
@[simp] theorem finish_codeBcd : (finish s).codeBcd = s.codeBcd := by rfl
@[simp] theorem finish_keyLen : (finish s).keyLen = s.keyLen := by rfl
@[simp] theorem finish_mac : (finish s).mac = s.mac := by rfl
@[simp] theorem finish_key : (finish s).key = s.key := by rfl
@[simp] theorem finish_pend : (finish s).pend = s.pend := by rfl
@[simp] theorem finish_acc : (finish s).acc = s.acc := by rfl
@[simp] theorem finish_nbits : (finish s).nbits = s.nbits := by rfl
@[simp] theorem finish_sha : (finish s).sha = s.sha := by rfl
@[simp] theorem finish_modu : (finish s).modu = s.modu := by rfl
@[simp] theorem finish_script : (finish s).script = s.script := by rfl
@[simp] theorem finish_resp : (finish s).resp = s.resp := by rfl
@[simp] theorem finish_freeCount : (finish s).freeCount = s.freeCount := by rfl

@[simp] theorem respond_busy (r : BusResponse) : (respond s r).busy = s.busy := by rfl
@[simp] theorem respond_keyValid (r : BusResponse) : (respond s r).keyValid = s.keyValid := by rfl
@[simp] theorem respond_ovr (r : BusResponse) : (respond s r).ovr = s.ovr := by rfl
@[simp] theorem respond_b32st (r : BusResponse) : (respond s r).b32st = s.b32st := by rfl
@[simp] theorem respond_err (r : BusResponse) : (respond s r).err = s.err := by rfl
@[simp] theorem respond_b32pos (r : BusResponse) : (respond s r).b32pos = s.b32pos := by rfl
@[simp] theorem respond_ctrLo (r : BusResponse) : (respond s r).ctrLo = s.ctrLo := by rfl
@[simp] theorem respond_ctrHi (r : BusResponse) : (respond s r).ctrHi = s.ctrHi := by rfl
@[simp] theorem respond_hotpVal (r : BusResponse) : (respond s r).hotpVal = s.hotpVal := by rfl
@[simp] theorem respond_code (r : BusResponse) : (respond s r).code = s.code := by rfl
@[simp] theorem respond_codeBcd (r : BusResponse) : (respond s r).codeBcd = s.codeBcd := by rfl
@[simp] theorem respond_keyLen (r : BusResponse) : (respond s r).keyLen = s.keyLen := by rfl
@[simp] theorem respond_mac (r : BusResponse) : (respond s r).mac = s.mac := by rfl
@[simp] theorem respond_key (r : BusResponse) : (respond s r).key = s.key := by rfl
@[simp] theorem respond_pend (r : BusResponse) : (respond s r).pend = s.pend := by rfl
@[simp] theorem respond_acc (r : BusResponse) : (respond s r).acc = s.acc := by rfl
@[simp] theorem respond_nbits (r : BusResponse) : (respond s r).nbits = s.nbits := by rfl
@[simp] theorem respond_sha (r : BusResponse) : (respond s r).sha = s.sha := by rfl
@[simp] theorem respond_modu (r : BusResponse) : (respond s r).modu = s.modu := by rfl
@[simp] theorem respond_script (r : BusResponse) : (respond s r).script = s.script := by rfl
@[simp] theorem respond_resp (r : BusResponse) : (respond s r).resp = r := by rfl
@[simp] theorem respond_freeCount (r : BusResponse) : (respond s r).freeCount = s.freeCount := by rfl

@[simp] theorem setScript_busy (ts : List Turn) : (setScript s ts).busy = s.busy := by rfl
@[simp] theorem setScript_keyValid (ts : List Turn) : (setScript s ts).keyValid = s.keyValid := by rfl
@[simp] theorem setScript_ovr (ts : List Turn) : (setScript s ts).ovr = s.ovr := by rfl
@[simp] theorem setScript_b32st (ts : List Turn) : (setScript s ts).b32st = s.b32st := by rfl
@[simp] theorem setScript_err (ts : List Turn) : (setScript s ts).err = s.err := by rfl
@[simp] theorem setScript_b32pos (ts : List Turn) : (setScript s ts).b32pos = s.b32pos := by rfl
@[simp] theorem setScript_ctrLo (ts : List Turn) : (setScript s ts).ctrLo = s.ctrLo := by rfl
@[simp] theorem setScript_ctrHi (ts : List Turn) : (setScript s ts).ctrHi = s.ctrHi := by rfl
@[simp] theorem setScript_hotpVal (ts : List Turn) : (setScript s ts).hotpVal = s.hotpVal := by rfl
@[simp] theorem setScript_code (ts : List Turn) : (setScript s ts).code = s.code := by rfl
@[simp] theorem setScript_codeBcd (ts : List Turn) : (setScript s ts).codeBcd = s.codeBcd := by rfl
@[simp] theorem setScript_keyLen (ts : List Turn) : (setScript s ts).keyLen = s.keyLen := by rfl
@[simp] theorem setScript_mac (ts : List Turn) : (setScript s ts).mac = s.mac := by rfl
@[simp] theorem setScript_key (ts : List Turn) : (setScript s ts).key = s.key := by rfl
@[simp] theorem setScript_pend (ts : List Turn) : (setScript s ts).pend = s.pend := by rfl
@[simp] theorem setScript_acc (ts : List Turn) : (setScript s ts).acc = s.acc := by rfl
@[simp] theorem setScript_nbits (ts : List Turn) : (setScript s ts).nbits = s.nbits := by rfl
@[simp] theorem setScript_sha (ts : List Turn) : (setScript s ts).sha = s.sha := by rfl
@[simp] theorem setScript_modu (ts : List Turn) : (setScript s ts).modu = s.modu := by rfl
@[simp] theorem setScript_script (ts : List Turn) : (setScript s ts).script = ts := by rfl
@[simp] theorem setScript_resp (ts : List Turn) : (setScript s ts).resp = s.resp := by rfl
@[simp] theorem setScript_freeCount (ts : List Turn) : (setScript s ts).freeCount = s.freeCount := by rfl

@[simp] theorem bumpFree_busy : (bumpFree s).busy = s.busy := by rfl
@[simp] theorem bumpFree_keyValid : (bumpFree s).keyValid = s.keyValid := by rfl
@[simp] theorem bumpFree_ovr : (bumpFree s).ovr = s.ovr := by rfl
@[simp] theorem bumpFree_b32st : (bumpFree s).b32st = s.b32st := by rfl
@[simp] theorem bumpFree_err : (bumpFree s).err = s.err := by rfl
@[simp] theorem bumpFree_b32pos : (bumpFree s).b32pos = s.b32pos := by rfl
@[simp] theorem bumpFree_ctrLo : (bumpFree s).ctrLo = s.ctrLo := by rfl
@[simp] theorem bumpFree_ctrHi : (bumpFree s).ctrHi = s.ctrHi := by rfl
@[simp] theorem bumpFree_hotpVal : (bumpFree s).hotpVal = s.hotpVal := by rfl
@[simp] theorem bumpFree_code : (bumpFree s).code = s.code := by rfl
@[simp] theorem bumpFree_codeBcd : (bumpFree s).codeBcd = s.codeBcd := by rfl
@[simp] theorem bumpFree_keyLen : (bumpFree s).keyLen = s.keyLen := by rfl
@[simp] theorem bumpFree_mac : (bumpFree s).mac = s.mac := by rfl
@[simp] theorem bumpFree_key : (bumpFree s).key = s.key := by rfl
@[simp] theorem bumpFree_pend : (bumpFree s).pend = s.pend := by rfl
@[simp] theorem bumpFree_acc : (bumpFree s).acc = s.acc := by rfl
@[simp] theorem bumpFree_nbits : (bumpFree s).nbits = s.nbits := by rfl
@[simp] theorem bumpFree_sha : (bumpFree s).sha = s.sha := by rfl
@[simp] theorem bumpFree_modu : (bumpFree s).modu = s.modu := by rfl
@[simp] theorem bumpFree_script : (bumpFree s).script = s.script := by rfl
@[simp] theorem bumpFree_resp : (bumpFree s).resp = s.resp := by rfl
@[simp] theorem bumpFree_freeCount : (bumpFree s).freeCount = s.freeCount + 1 := by rfl

@[simp] theorem applyReset_busy : (applyReset s).busy = false := by rfl
@[simp] theorem applyReset_keyValid : (applyReset s).keyValid = false := by rfl
@[simp] theorem applyReset_ovr : (applyReset s).ovr = false := by rfl
@[simp] theorem applyReset_b32st : (applyReset s).b32st = .idle := by rfl
@[simp] theorem applyReset_err : (applyReset s).err = .none := by rfl
@[simp] theorem applyReset_b32pos : (applyReset s).b32pos = 0 := by rfl
@[simp] theorem applyReset_ctrLo : (applyReset s).ctrLo = 0 := by rfl
@[simp] theorem applyReset_ctrHi : (applyReset s).ctrHi = 0 := by rfl
@[simp] theorem applyReset_hotpVal : (applyReset s).hotpVal = 0 := by rfl
@[simp] theorem applyReset_code : (applyReset s).code = 0 := by rfl
@[simp] theorem applyReset_codeBcd : (applyReset s).codeBcd = 0 := by rfl
@[simp] theorem applyReset_keyLen : (applyReset s).keyLen = 0 := by rfl
@[simp] theorem applyReset_mac : (applyReset s).mac = Digest.zero := by rfl
@[simp] theorem applyReset_key : (applyReset s).key = [] := by rfl
@[simp] theorem applyReset_pend : (applyReset s).pend = 0 := by rfl
@[simp] theorem applyReset_acc : (applyReset s).acc = 0 := by rfl
@[simp] theorem applyReset_nbits : (applyReset s).nbits = 0 := by rfl
@[simp] theorem applyReset_sha : (applyReset s).sha = ShaUnit.reset := by rfl
@[simp] theorem applyReset_modu : (applyReset s).modu = ModUnit.reset := by rfl
@[simp] theorem applyReset_script : (applyReset s).script = s.script := by rfl
@[simp] theorem applyReset_resp : (applyReset s).resp = s.resp := by rfl
@[simp] theorem applyReset_freeCount : (applyReset s).freeCount = s.freeCount := by rfl

end Sys2Proof.Machine
end

