-- ==== Sys2Proof/Laws/Ops.lean ====
section
/-! SUPPORT. What each shared operation of Machine/Ops.lean can do, said once. -/

namespace Sys2Proof.Machine

@[simp] theorem mapNext_next (f : State → State) (s : State) : mapNext f (.next s) = .next (f s) := rfl

@[simp] theorem mapNext_fault (f : State → State) (r : Fault) : mapNext f (.fault r) = .fault r := rfl

@[simp] theorem nextOf_next (s : State) : nextOf (.next s) = some s := rfl

/-- A changed next state comes from a next state. -/
theorem mapNext_eq_next {f : State → State} {r : Result} {t : State} (h : mapNext f r = .next t) :
    ∃ s, r = .next s ∧ t = f s := by
  cases r with
  | next s => exact ⟨s, rfl, by simpa [mapNext] using h.symm⟩
  | fault e => simp [mapNext] at h
  | refused e => simp [mapNext] at h

/-- The latch keeps an error it holds. -/
theorem raiseError_of_err {s : State} (c : ErrCode) (h : s.err ≠ .none) : raiseError s c = s := by
  simp [raiseError, h]

/-- The latch takes the first error. -/
theorem raiseError_of_none {s : State} (c : ErrCode) (h : s.err = .none) : raiseError s c = { s with err := c } := by
  simp [raiseError, h]

/-- Everything Append can do (41_base32.md R422). -/
theorem append_cases (s : State) (b : Byte) :
    (64 ≤ s.keyLen.toNat ∧ append s b = none) ∨
    (s.keyLen.toNat < 64 ∧ append s b = some (storeKeyByte s b)) := by
  unfold append Config.keyMax
  split
  · next h => exact .inr ⟨h, rfl⟩
  · next h => exact .inl ⟨by omega, rfl⟩

theorem append_eq_some {s t : State} {b : Byte} (h : append s b = some t) :
    s.keyLen.toNat < 64 ∧ t = storeKeyByte s b := by
  rcases append_cases s b with ⟨-, h'⟩ | ⟨hl, h'⟩
  · simp [h'] at h
  · exact ⟨hl, by simpa [h'] using h.symm⟩

theorem append_eq_none {s : State} {b : Byte} (h : append s b = none) : 64 ≤ s.keyLen.toNat := by
  rcases append_cases s b with ⟨hl, -⟩ | ⟨-, h'⟩
  · exact hl
  · simp [h'] at h

/-- KEY_LEN after an append does not wrap. -/
theorem keyLen_succ {n : BitVec 7} (h : n.toNat < 64) : (n + 1).toNat = n.toNat + 1 := by
  simp [BitVec.toNat_add]; omega

/-- An append writes the byte at index KEY_LEN and no other. -/
theorem storeKeyByte_read {s : State} (hw : s.key.wf = true) (b : Byte) :
    (storeKeyByte s b).key.read s.keyLen.toNat = b := Memory.read_write_same hw _ b

theorem storeKeyByte_read_other (s : State) (b : Byte) {i : Nat} (h : i ≠ s.keyLen.toNat) :
    (storeKeyByte s b).key.read i = s.key.read i := Memory.read_write_other _ _ b i h

end Sys2Proof.Machine
end

