-- ==== Sys2Proof/Laws/Exec.lean ====
section
/-! SUPPORT. What `exec` does for each command, and what no command touches. -/

namespace Sys2Proof.Machine

@[simp] theorem exec_nop (s : State) : exec .nop s = .next s := rfl
@[simp] theorem exec_srst (s : State) : exec .srst s = .next (applyReset s) := rfl
@[simp] theorem exec_clrerr (s : State) : exec .clrerr s = .next (clearErrors s) := rfl
@[simp] theorem exec_b32begin (s : State) :
    exec .b32begin s = .next (restartDecoder (setKeyValid (clearKey s) false) .data) := rfl
@[simp] theorem exec_b32char (c : Byte) (s : State) : exec (.b32char c) s = .next (decodeChar s c) := rfl
@[simp] theorem exec_b32end (s : State) : exec .b32end s = .next (endSession s) := rfl
@[simp] theorem exec_keyclr (s : State) :
    exec .keyclr s = .next (restartDecoder (setKeyValid (clearKey s) true) .idle) := rfl
@[simp] theorem exec_keybyte (b : Byte) (s : State) : exec (.keybyte b) s = .next (rawKeyByte s b) := rfl
@[simp] theorem exec_trunc (s : State) : exec .trunc s = .next (setHotpVal s (dynTrunc s.mac.bytes)) := rfl
@[simp] theorem exec_mod (s : State) : exec .mod s = .next (releaseModu (writeCode s s.hotpVal)) := rfl

/-- HMAC without a valid key (42_hmac_sha1.md R535). -/
theorem exec_hmac_noKey {s : State} (h : s.keyValid = false) : exec .hmac s = .next (raiseError s .noKey) := by
  change (if s.keyValid = false then _ else _) = _
  rw [if_pos h]

/-- HMAC with a valid key (R535). -/
theorem exec_hmac_key {s : State} (h : s.keyValid = true) :
    exec .hmac s = .next (releaseSha (setMac s (keyedDigest s))) := by
  change (if s.keyValid = false then _ else _) = _
  rw [if_neg (by simp [h])]

/-- HOTP without a valid key (43_truncate_modulo.md R620). -/
theorem exec_hotp_noKey {s : State} (h : s.keyValid = false) : exec .hotp s = .next (raiseError s .noKey) := by
  change (if s.keyValid = false then _ else _) = _
  rw [if_pos h]

/-- HOTP with a valid key (R620). -/
theorem exec_hotp_key {s : State} (h : s.keyValid = true) :
    exec .hotp s = .next (releaseModu (releaseSha (writeHotp s (keyedDigest s)))) := by
  change (if s.keyValid = false then _ else _) = _
  rw [if_neg (by simp [h])]

/-- Everything HMAC can do. -/
theorem exec_hmac_cases {s t : State} (h : exec .hmac s = .next t) :
    (s.keyValid = false ∧ t = raiseError s .noKey) ∨
    (s.keyValid = true ∧ t = releaseSha (setMac s (keyedDigest s))) := by
  cases hk : s.keyValid
  · rw [exec_hmac_noKey hk, Host.Outcome.next.injEq] at h; exact .inl ⟨rfl, h.symm⟩
  · rw [exec_hmac_key hk, Host.Outcome.next.injEq] at h; exact .inr ⟨rfl, h.symm⟩

/-- Everything HOTP can do. -/
theorem exec_hotp_cases {s t : State} (h : exec .hotp s = .next t) :
    (s.keyValid = false ∧ t = raiseError s .noKey) ∨
    (s.keyValid = true ∧ t = releaseModu (releaseSha (writeHotp s (keyedDigest s)))) := by
  cases hk : s.keyValid
  · rw [exec_hotp_noKey hk, Host.Outcome.next.injEq] at h; exact .inl ⟨rfl, h.symm⟩
  · rw [exec_hotp_key hk, Host.Outcome.next.injEq] at h; exact .inr ⟨rfl, h.symm⟩

/-- No command stops the machine. -/
theorem exec_answers (i : Instr) (s : State) : ∃ t, exec i s = .next t := by
  cases i
  case hmac => cases h : s.keyValid <;> [exact ⟨_, exec_hmac_noKey h⟩; exact ⟨_, exec_hmac_key h⟩]
  case hotp => cases h : s.keyValid <;> [exact ⟨_, exec_hotp_noKey h⟩; exact ⟨_, exec_hotp_key h⟩]
  all_goals exact ⟨_, rfl⟩

/-! ### What a character can do -/

/-- Everything a data character in state DATA can do (41_base32.md R420). -/
theorem dataChar_cases (s : State) (v : BitVec 5) :
    ((shift s.acc s.nbits v).byte = none ∧
      dataChar s v = advancePos (setShifter s (shift s.acc s.nbits v).acc (shift s.acc s.nbits v).nbits)) ∨
    (∃ b, (shift s.acc s.nbits v).byte = some b ∧ 64 ≤ s.keyLen.toNat ∧ dataChar s v = failChar s .keyOvf) ∨
    (∃ b, (shift s.acc s.nbits v).byte = some b ∧ s.keyLen.toNat < 64 ∧
      dataChar s v = advancePos (setShifter (storeKeyByte s b) (shift s.acc s.nbits v).acc
        (shift s.acc s.nbits v).nbits)) := by
  unfold dataChar
  cases hb : (shift s.acc s.nbits v).byte with
  | none => exact .inl ⟨rfl, by simp [hb]⟩
  | some b =>
    rcases append_cases s b with ⟨hl, ha⟩ | ⟨hl, ha⟩
    · exact .inr (.inl ⟨b, rfl, hl, by simp [hb, ha]⟩)
    · exact .inr (.inr ⟨b, rfl, hl, by simp [hb, ha]⟩)

/-- Everything B32CHAR can do, case by case in the order of its pseudocode (R420). -/
theorem decodeChar_cases (s : State) (c : Byte) :
    (s.b32st = .idle ∧ decodeChar s c = raiseError s .seq) ∨
    (s.b32st = .error ∧ decodeChar s c = s) ∨
    (s.b32st ≠ .idle ∧ s.b32st ≠ .error ∧ lut c = .invalid ∧ decodeChar s c = failChar s .b32Char) ∨
    (∃ v, s.b32st = .data ∧ lut c = .value v ∧ decodeChar s c = dataChar s v) ∨
    (s.b32st = .data ∧ lut c = .pad ∧ padLegal s.b32pos = true ∧
      decodeChar s c = setDecoder (advancePos s) (if s.b32pos = 7 then .full else .pad)) ∨
    (s.b32st = .data ∧ lut c = .pad ∧ padLegal s.b32pos = false ∧ decodeChar s c = failChar s .b32Pad) ∨
    (s.b32st = .pad ∧ lut c = .pad ∧ s.b32pos = 7 ∧ decodeChar s c = setDecoder (advancePos s) .full) ∨
    (s.b32st = .pad ∧ lut c = .pad ∧ s.b32pos ≠ 7 ∧ decodeChar s c = advancePos s) ∨
    (s.b32st = .pad ∧ (∃ v, lut c = .value v) ∧ decodeChar s c = failChar s .b32Pad) ∨
    (s.b32st = .full ∧ lut c ≠ .invalid ∧ decodeChar s c = failChar s .b32Pad) := by
  unfold decodeChar
  by_cases h0 : s.b32st = .idle
  · exact .inl ⟨h0, if_pos h0⟩
  by_cases h1 : s.b32st = .error
  · exact .inr (.inl ⟨h1, by rw [if_neg h0, if_pos h1]⟩)
  rw [if_neg h0, if_neg h1]
  refine .inr (.inr ?_)
  cases hc : lut c with
  | invalid => exact .inl ⟨h0, h1, rfl, rfl⟩
  | value v =>
    refine .inr ?_
    by_cases hd : s.b32st = .data
    · exact .inl ⟨v, hd, rfl, if_pos hd⟩
    · refine .inr (.inr (.inr (.inr (.inr ?_))))
      rw [if_neg hd]
      cases hs : s.b32st
      case pad => exact .inl ⟨rfl, ⟨v, rfl⟩, rfl⟩
      case full => exact .inr ⟨rfl, by simp, rfl⟩
      all_goals contradiction
  | pad =>
    refine .inr (.inr ?_)
    by_cases hd : s.b32st = .data
    · rw [if_pos hd, firstPad]
      cases hp : padLegal s.b32pos
      · exact .inr (.inl ⟨hd, rfl, rfl, rfl⟩)
      · exact .inl ⟨hd, rfl, rfl, rfl⟩
    · rw [if_neg hd, nextPad]
      refine .inr (.inr ?_)
      by_cases hp : s.b32st = .pad
      · rw [if_pos hp]
        by_cases h7 : s.b32pos = 7
        · exact .inl ⟨hp, rfl, h7, if_pos h7⟩
        · exact .inr (.inl ⟨hp, rfl, h7, if_neg h7⟩)
      · rw [if_neg hp]
        cases hs : s.b32st
        case full => exact .inr (.inr (.inr ⟨rfl, by simp, rfl⟩))
        all_goals contradiction

/-- A character writes only the decoder's registers, the key and ERR. -/
theorem decodeChar_frame (s : State) (c : Byte) :
    decodeChar s c = { s with
      b32st := (decodeChar s c).b32st, b32pos := (decodeChar s c).b32pos, err := (decodeChar s c).err,
      key := (decodeChar s c).key, keyLen := (decodeChar s c).keyLen,
      acc := (decodeChar s c).acc, nbits := (decodeChar s c).nbits } := by
  rcases decodeChar_cases s c with h | h | h | ⟨v, h⟩ | h | h | h | h | h | h
  case inr.inr.inr.inl =>
    rw [h.2.2]
    rcases dataChar_cases s v with h | ⟨b, h⟩ | ⟨b, h⟩
    · rw [h.2]; rfl
    · rw [h.2.2]; rfl
    · rw [h.2.2]; rfl
  · rw [h.2]; rfl
  · rw [h.2]
  · rw [h.2.2.2]; rfl
  · rw [h.2.2.2]; rfl
  · rw [h.2.2.2]; rfl
  · rw [h.2.2.2]; rfl
  · rw [h.2.2.2]; rfl
  · rw [h.2.2]; rfl
  · rw [h.2.2]; rfl

/-- Everything KEYBYTE can do (R441). -/
theorem rawKeyByte_cases (s : State) (b : Byte) :
    ((s.b32st ≠ .idle ∨ s.keyValid = false) ∧ rawKeyByte s b = raiseError s .seq) ∨
    (s.b32st = .idle ∧ s.keyValid = true ∧ 64 ≤ s.keyLen.toNat ∧
      rawKeyByte s b = setKeyValid (raiseError s .keyOvf) false) ∨
    (s.b32st = .idle ∧ s.keyValid = true ∧ s.keyLen.toNat < 64 ∧ rawKeyByte s b = storeKeyByte s b) := by
  unfold rawKeyByte
  split
  · next h => exact .inl ⟨h, rfl⟩
  · next h =>
    simp only [ne_eq, not_or, not_not, Bool.not_eq_false] at h
    rcases append_cases s b with ⟨hl, ha⟩ | ⟨hl, ha⟩
    · exact .inr (.inl ⟨h.1, h.2, hl, by simp [ha]⟩)
    · exact .inr (.inr ⟨h.1, h.2, hl, by simp [ha]⟩)

/-- Everything B32END can do (R430). -/
theorem endSession_cases (s : State) :
    (s.b32st = .idle ∧ endSession s = raiseError s .seq) ∨
    (s.b32st = .error ∧ endSession s = restartDecoder s .idle) ∨
    ((s.b32st = .full ∨ s.b32st = .data ∧ s.b32pos = 0) ∧ endSession s = restartDecoder (setKeyValid s true) .idle) ∨
    ((s.b32st = .pad ∨ s.b32st = .data ∧ s.b32pos ≠ 0) ∧
      endSession s = restartDecoder (raiseError s .b32Len) .idle) := by
  unfold endSession sessionVerdict
  cases hst : s.b32st
  case data =>
    by_cases hp : s.b32pos = 0
    · exact .inr (.inr (.inl ⟨.inr ⟨rfl, hp⟩, congrArg (restartDecoder · .idle) (if_pos hp)⟩))
    · exact .inr (.inr (.inr ⟨.inr ⟨rfl, hp⟩, congrArg (restartDecoder · .idle) (if_neg hp)⟩))
  all_goals simp

/-- What no command but SRST touches: BUSY, PEND, the counter, the turns to come and the bus response. -/
theorem exec_keeps {i : Instr} {s t : State} (hi : i ≠ .srst) (h : exec i s = .next t) :
    t.busy = s.busy ∧ t.pend = s.pend ∧ t.ctrLo = s.ctrLo ∧ t.ctrHi = s.ctrHi ∧ t.script = s.script ∧
      t.resp = s.resp := by
  cases i
  case srst => exact absurd rfl hi
  case hmac =>
    rcases exec_hmac_cases h with ⟨-, rfl⟩ | ⟨-, rfl⟩ <;> simp
  case hotp =>
    rcases exec_hotp_cases h with ⟨-, rfl⟩ | ⟨-, rfl⟩ <;> simp [writeHotp, writeCode]
  case b32char c =>
    rw [exec_b32char, Host.Outcome.next.injEq] at h
    subst h
    rw [decodeChar_frame]
    simp
  case b32end =>
    rw [exec_b32end, Host.Outcome.next.injEq] at h
    subst h
    rcases endSession_cases s with h | h | h | h <;> rw [h.2] <;> simp
  case keybyte b =>
    rw [exec_keybyte, Host.Outcome.next.injEq] at h
    subst h
    rcases rawKeyByte_cases s b with h | h | h
    · rw [h.2]; simp
    · rw [h.2.2.2]; simp
    · rw [h.2.2.2]; simp
  all_goals
    simp only [exec_nop, exec_clrerr, exec_b32begin, exec_keyclr, exec_trunc, exec_mod, Host.Outcome.next.injEq] at h
    subst h
    simp [writeCode]

end Sys2Proof.Machine
end

