-- ==== Sys2Proof/Laws/Bus.lean ====
section
/-! SUPPORT. The bus window: which register an address names, and what issue, a bus write and a host step can do. -/

namespace Sys2Proof.Machine

/-- The register found at an address has that offset. -/
theorem offset_of_regAt {a : BitVec 8} {r : Reg} (h : regAt a = some r) : r.offset = a := by
  simpa using List.find?_some h

/-- Every register is found at its offset (10_state.md R101). -/
theorem regAt_offset (r : Reg) : regAt r.offset = some r := by
  cases r
  case mac i => revert i; decide
  case keyw i => revert i; decide
  all_goals decide

/-- A misaligned or unmapped address names no register (20_memory.md R204). -/
theorem regAt_eq_none {a : BitVec 8} (h : a.toNat % 4 ≠ 0 ∨ a = 0x34 ∨ a = 0x38 ∨ 0x80 ≤ a.toNat) : regAt a = none := by
  revert a
  decide +kernel

/-- The addresses of the read-only registers (R101, R205). -/
theorem regAt_readOnly {a : BitVec 8}
    (h : a = 0x04 ∨ a = 0x14 ∨ a = 0x18 ∨ a = 0x1C ∨ a = 0x3C ∨ (a.toNat % 4 = 0 ∧ 0x40 ≤ a.toNat ∧ a.toNat < 0x80)) :
    ∃ r, regAt a = some r ∧ r.access = .ro := by
  have : ∀ a : BitVec 8,
      (a = 0x04 ∨ a = 0x14 ∨ a = 0x18 ∨ a = 0x1C ∨ a = 0x3C ∨ (a.toNat % 4 = 0 ∧ 0x40 ≤ a.toNat ∧ a.toNat < 0x80)) →
      (regAt a).map Reg.access = some .ro := by decide +kernel
  simpa using this a h

/-- The addresses of the read-write registers (R101, R206). -/
theorem regAt_readWrite {a : BitVec 8}
    (h : a = 0x08 ∨ a = 0x0C ∨ a = 0x10 ∨ (a.toNat % 4 = 0 ∧ 0x20 ≤ a.toNat ∧ a.toNat ≤ 0x30)) :
    ∃ r, regAt a = some r ∧ r.access = .rw := by
  have : ∀ a : BitVec 8,
      (a = 0x08 ∨ a = 0x0C ∨ a = 0x10 ∨ (a.toNat % 4 = 0 ∧ 0x20 ≤ a.toNat ∧ a.toNat ≤ 0x30)) →
      (regAt a).map Reg.access = some .rw := by decide +kernel
  simpa using this a h

/-- Only those are the addresses of read-write registers (R101). -/
theorem address_of_readWrite {a : BitVec 8} {r : Reg} (hr : regAt a = some r) (ha : r.access = .rw) :
    a = 0x08 ∨ a = 0x0C ∨ a = 0x10 ∨ (a.toNat % 4 = 0 ∧ 0x20 ≤ a.toNat ∧ a.toNat ≤ 0x30) := by
  have : ∀ a : BitVec 8, (regAt a).map Reg.access = some .rw →
      (a = 0x08 ∨ a = 0x0C ∨ a = 0x10 ∨ (a.toNat % 4 = 0 ∧ 0x20 ≤ a.toNat ∧ a.toNat ≤ 0x30)) := by decide +kernel
  exact this a (by simp [hr, ha])

/-- Only CMD is write-only. -/
theorem access_wo {r : Reg} (h : r.access = .wo) : r = .cmd := by
  cases r <;> simp [Reg.access] at h ⊢

/-- What an idle host write to a read-write register stores (R207). -/
theorem writeReg_cases {r : Reg} (h : r.access = .rw) (s : State) (v : Word) :
    (r = .ctrLo ∧ writeReg s r v = { s with ctrLo := v }) ∨
    (r = .ctrHi ∧ writeReg s r v = { s with ctrHi := v }) ∨
    (r = .hotpVal ∧ writeReg s r v = setHotpVal s v) ∨
    (∃ i, r = .mac i ∧ writeReg s r v = setMac s (s.mac.setWord i v)) := by
  cases r <;> simp [Reg.access, writeReg] at h ⊢

/-- A register's value does not depend on the bus response or the turns to come. -/
@[simp] theorem readReg_respond (s : State) (x : BusResponse) (r : Reg) : readReg (respond s x) r = readReg s r := by
  cases r <;> rfl

@[simp] theorem readReg_setScript (s : State) (ts : List Turn) (r : Reg) :
    readReg (setScript s ts) r = readReg s r := by
  cases r <;> rfl

@[simp] theorem busRead_respond (s : State) (x : BusResponse) (a : BitVec 8) : busRead (respond s x) a = busRead s a := by
  unfold busRead
  cases regAt a <;> simp

@[simp] theorem busRead_setScript (s : State) (ts : List Turn) (a : BitVec 8) :
    busRead (setScript s ts) a = busRead s a := by
  unfold busRead
  cases regAt a <;> simp

theorem legal_srstWord : legal srstWord = true := by decide

/-- Everything Issue(v) can do (40_command_issue.md R350). -/
theorem issue_cases (s : State) (v : Word) :
    (v = srstWord ∧ issue s v = .next (applyReset s)) ∨
    (v ≠ srstWord ∧ s.busy = true ∧ issue s v = .next (setOvr s)) ∨
    (v ≠ srstWord ∧ s.busy = false ∧ legal v = false ∧ issue s v = .next (raiseError s .illegalCmd)) ∨
    (v ≠ srstWord ∧ s.busy = false ∧ legal v = true ∧ issue s v = .next (accept s v)) := by
  unfold issue
  by_cases hv : v = srstWord
  · subst hv
    refine .inl ⟨rfl, ?_⟩
    cases s.busy <;> simp [legal_srstWord]
  · cases hb : s.busy <;> cases hl : legal v <;> simp [hv]

/-- Everything a bus write can do (20_memory.md R209). -/
theorem busWrite_cases (s : State) (a : BitVec 8) (v : Word) :
    (regAt a = none ∧ busWrite s a v = .next s) ∨
    (∃ r, regAt a = some r ∧ r.access = .ro ∧ busWrite s a v = .next s) ∨
    (∃ r, regAt a = some r ∧ r.access = .rw ∧ s.busy = true ∧ busWrite s a v = .next (setOvr s)) ∨
    (∃ r, regAt a = some r ∧ r.access = .rw ∧ s.busy = false ∧ busWrite s a v = .next (writeReg s r v)) ∨
    (a = 0x00 ∧ busWrite s a v = issue s v) := by
  unfold busWrite
  cases h : regAt a with
  | none => exact .inl ⟨rfl, rfl⟩
  | some r =>
    refine .inr ?_
    cases hr : r.access with
    | wo =>
      have hc := access_wo hr
      subst hc
      exact .inr (.inr (.inr ⟨(offset_of_regAt h).symm, by simp [hr]⟩))
    | ro => exact .inl ⟨r, rfl, hr, by simp [hr]⟩
    | rw =>
      cases hb : s.busy
      · exact .inr (.inr (.inl ⟨r, rfl, hr, rfl, by simp [hr]⟩))
      · exact .inr (.inl ⟨r, rfl, hr, rfl, by simp [hr]⟩)

/-- A bus write always answers. -/
theorem busWrite_answers (s : State) (a : BitVec 8) (v : Word) : ∃ t, busWrite s a v = .next t := by
  rcases busWrite_cases s a v with h | ⟨r, h⟩ | ⟨r, h⟩ | ⟨r, h⟩ | h
  · exact ⟨_, h.2⟩
  · exact ⟨_, h.2.2⟩
  · exact ⟨_, h.2.2.2⟩
  · exact ⟨_, h.2.2.2⟩
  · rcases issue_cases s v with h' | h' | h' | h'
    · exact ⟨_, h.2.trans h'.2⟩
    · exact ⟨_, h.2.trans h'.2.2⟩
    · exact ⟨_, h.2.trans h'.2.2.2⟩
    · exact ⟨_, h.2.trans h'.2.2.2⟩

end Sys2Proof.Machine
end

