-- ==== Sys2Proof/Laws/PerInstr.lean ====
section
/-! SUPPORT. The family EncodeFields, one lemma per command: the fields of its word (30_encoding.md R300 to R303). -/

namespace Sys2Proof.Laws.EncodeFields

/-- The OP values of the opcode map (R303). -/
def op : Instr → Byte
  | .nop => 0x00
  | .srst => 0x01
  | .clrerr => 0x02
  | .b32begin => 0x10
  | .b32char _ => 0x11
  | .b32end => 0x12
  | .keyclr => 0x18
  | .keybyte _ => 0x19
  | .hmac => 0x20
  | .hotp => 0x21
  | .trunc => 0x30
  | .mod => 0x31

/-- The byte in IMM8: the operand of B32CHAR and KEYBYTE, 0 for every other command (R300, R301). -/
def imm8 : Instr → Byte
  | .nop => 0
  | .srst => 0
  | .clrerr => 0
  | .b32begin => 0
  | .b32char c => c
  | .b32end => 0
  | .keyclr => 0
  | .keybyte b => b
  | .hmac => 0
  | .hotp => 0
  | .trunc => 0
  | .mod => 0

/-- The word of a command has its OP, its operand in IMM8 and zeros in ZERO, and R305 calls it legal. -/
def Statement (i : Instr) : Prop :=
  opField (encode i) = op i ∧ imm8Field (encode i) = imm8 i ∧ zeroField (encode i) = 0 ∧
    wordWellFormed (encode i) = true

theorem nop : Statement .nop := by unfold Statement; decide
theorem srst : Statement .srst := by unfold Statement; decide
theorem clrerr : Statement .clrerr := by unfold Statement; decide
theorem b32begin : Statement .b32begin := by unfold Statement; decide
theorem b32char (c : Byte) : Statement (.b32char c) := by unfold Statement; revert c; decide +kernel
theorem b32end : Statement .b32end := by unfold Statement; decide
theorem keyclr : Statement .keyclr := by unfold Statement; decide
theorem keybyte (b : Byte) : Statement (.keybyte b) := by unfold Statement; revert b; decide +kernel
theorem hmac : Statement .hmac := by unfold Statement; decide
theorem hotp : Statement .hotp := by unfold Statement; decide
theorem trunc : Statement .trunc := by unfold Statement; decide
theorem mod : Statement .mod := by unfold Statement; decide

end Sys2Proof.Laws.EncodeFields
end

