-- ==== Sys2Proof/Laws/Sha.lean ====
section
/-! SUPPORT. What the parts of the round processor leave alone, and the byte and word views of each other. They are
proved `by rfl`, so that no proof compares two runs of 80 rounds by definition. -/

namespace Sys2Proof.Machine

/-- The last of n + 1 rounds. -/
theorem ShaUnit.rounds_succ (n : Nat) (u : ShaUnit) : ShaUnit.rounds (n + 1) u = (ShaUnit.rounds n u).round := by
  induction n generalizing u with
  | zero => rfl
  | succ n ih => exact ih u.round

@[simp] theorem ShaUnit.round_h (u : ShaUnit) : u.round.h = u.h := by rfl
@[simp] theorem ShaUnit.round_ih (u : ShaUnit) : u.round.ih = u.ih := by rfl
@[simp] theorem ShaUnit.round_phase (u : ShaUnit) : u.round.phase = u.phase := by rfl
@[simp] theorem ShaUnit.round_t (u : ShaUnit) : u.round.t = u.t + 1 := by rfl
@[simp] theorem ShaUnit.round_w (u : ShaUnit) : u.round.w = advanceSchedule u.t.toNat u.w := by rfl

@[simp] theorem ShaUnit.load_h (u : ShaUnit) (m : Block) : (u.load m).h = u.h := by rfl
@[simp] theorem ShaUnit.load_ih (u : ShaUnit) (m : Block) : (u.load m).ih = u.ih := by rfl
@[simp] theorem ShaUnit.load_phase (u : ShaUnit) (m : Block) : (u.load m).phase = u.phase := by rfl
@[simp] theorem ShaUnit.load_t (u : ShaUnit) (m : Block) : (u.load m).t = 0 := by rfl
@[simp] theorem ShaUnit.load_w (u : ShaUnit) (m : Block) : (u.load m).w = m := by rfl
@[simp] theorem ShaUnit.load_work (u : ShaUnit) (m : Block) : (u.load m).work = Working.ofDigest u.h := by rfl

@[simp] theorem ShaUnit.finalAdd_h (u : ShaUnit) : u.finalAdd.h = addWorking u.h u.work := by rfl
@[simp] theorem ShaUnit.finalAdd_ih (u : ShaUnit) : u.finalAdd.ih = u.ih := by rfl
@[simp] theorem ShaUnit.finalAdd_phase (u : ShaUnit) : u.finalAdd.phase = u.phase := by rfl

@[simp] theorem ShaUnit.startPhase_h (u : ShaUnit) (p : BitVec 2) (h : Digest) : (u.startPhase p h).h = h := by rfl
@[simp] theorem ShaUnit.startPhase_ih (u : ShaUnit) (p : BitVec 2) (h : Digest) : (u.startPhase p h).ih = u.ih := by rfl
@[simp] theorem ShaUnit.startPhase_phase (u : ShaUnit) (p : BitVec 2) (h : Digest) :
    (u.startPhase p h).phase = p := by rfl

@[simp] theorem ShaUnit.keepInner_h (u : ShaUnit) : u.keepInner.h = u.h := by rfl
@[simp] theorem ShaUnit.keepInner_ih (u : ShaUnit) : u.keepInner.ih = u.h := by rfl

/-- Rounds leave H0..H4 alone (42_hmac_sha1.md R511: only the final addition writes them). -/
@[simp] theorem ShaUnit.rounds_h (n : Nat) (u : ShaUnit) : (ShaUnit.rounds n u).h = u.h := by
  induction n generalizing u with
  | zero => rfl
  | succ n ih => rw [ShaUnit.rounds, ih, round_h]

@[simp] theorem ShaUnit.rounds_ih (n : Nat) (u : ShaUnit) : (ShaUnit.rounds n u).ih = u.ih := by
  induction n generalizing u with
  | zero => rfl
  | succ n ih => rw [ShaUnit.rounds, ih, round_ih]

/-- The round counter counts rounds. -/
theorem ShaUnit.rounds_t (n : Nat) (u : ShaUnit) : (ShaUnit.rounds n u).t = u.t + BitVec.ofNat 7 n := by
  induction n with
  | zero => simp [ShaUnit.rounds]
  | succ n ih => rw [rounds_succ, round_t, ih, BitVec.add_assoc, BitVec.ofNat_add]; rfl

/-- A compression leaves the inner digest alone. -/
@[simp] theorem ShaUnit.compress_ih (u : ShaUnit) (m : Block) : (u.compress m).ih = u.ih := by
  rw [ShaUnit.compress, finalAdd_ih, rounds_ih, load_ih]

/-- What a compression leaves in H depends on H and the block only through the rounds of the loaded unit. -/
theorem ShaUnit.compress_h (u : ShaUnit) (m : Block) :
    (u.compress m).h = addWorking u.h (ShaUnit.rounds 80 (u.load m)).work := by
  rw [ShaUnit.compress, finalAdd_h, rounds_h, load_h]

/-- Equal slots of the circular schedule hold equal words. -/
theorem getElem_slot (w : Block) {i j : Nat} (h : i % 16 = j % 16) : w[slot i] = w[slot j] := by
  have hs : slot i = slot j := Fin.ext h
  have : ∀ a b : Fin 16, a = b → w[a] = w[b] := by rintro a _ rfl; rfl
  exact this _ _ hs

/-- BE32 is concatenation (00_scope.md R10). -/
theorem be32_eq_append (a b c d : Byte) : be32 a b c d = a ++ b ++ c ++ d := by
  apply BitVec.eq_of_getLsbD_eq
  intro k hk
  simp only [be32, BitVec.getLsbD_append, BitVec.getLsbD_or, BitVec.getLsbD_shiftLeft, BitVec.getLsbD_setWidth]
  interval_cases k <;> simp

/-- A word is BE32 of its bytes. -/
theorem be32_bytesOfWord (w : Word) :
    be32 (w.extractLsb' 24 8) (w.extractLsb' 16 8) (w.extractLsb' 8 8) (w.extractLsb' 0 8) = w := by
  rw [be32_eq_append]
  apply BitVec.eq_of_getLsbD_eq
  intro k hk
  simp only [BitVec.getLsbD_append, BitVec.getLsbD_extractLsb']
  interval_cases k <;> simp

/-- A pad byte in every byte of a word. -/
theorem be32_xor (a b c d p : Byte) :
    be32 (a ^^^ p) (b ^^^ p) (c ^^^ p) (d ^^^ p) = be32 a b c d ^^^ be32 p p p p := by
  simp only [be32_eq_append]
  apply BitVec.eq_of_getLsbD_eq
  intro k hk
  simp only [BitVec.getLsbD_append, BitVec.getLsbD_xor]
  interval_cases k <;> simp

end Sys2Proof.Machine
end

