-- ==== Sys2Proof/Laws/Step.lean ====
section
/-! SUPPORT. Everything a step can do, said once, and the step of a state with one given turn in front. -/

namespace Sys2Proof.Machine

@[simp] theorem startStep_hostTurn (s : State) (tx : BusTx) : startStep (hostTurn s tx) = respond s .none := rfl
@[simp] theorem startStep_sequencerTurn (s : State) : startStep (sequencerTurn s) = respond s .none := rfl
@[simp] theorem startStep_rstTurn (s : State) (tx : Option BusTx) : startStep (rstTurn s tx) = respond s .none := rfl
@[simp] theorem nextTurn_hostTurn (s : State) (tx : BusTx) : nextTurn (hostTurn s tx) = .host tx := rfl
@[simp] theorem nextTurn_sequencerTurn (s : State) : nextTurn (sequencerTurn s) = .sequencer := rfl
@[simp] theorem nextTurn_rstTurn (s : State) (tx : Option BusTx) : nextTurn (rstTurn s tx) = .rst tx := rfl
@[simp] theorem respond_respond (s : State) (x y : BusResponse) : respond (respond s x) y = respond s y := rfl

/-- A host read (20_memory.md R209). -/
theorem step_read (s : State) (a : BitVec 8) :
    step (hostTurn s (.read a)) = .next (respond s (.readData (busRead s a).1 (busRead s a).2)) := by
  simp [step, runTurn, hostStep]

/-- A host write (R209). -/
theorem step_write (s : State) (a : BitVec 8) (v : Word) :
    step (hostTurn s (.write a v)) = mapNext (respond · (.written (busWriteErr a))) (busWrite (respond s .none) a v) := rfl

/-- A write to CMD (40_command_issue.md R350). -/
theorem step_write_cmd (s : State) (v : Word) :
    step (hostTurn s (.write 0x00 v)) = mapNext (respond · (.written false)) (issue (respond s .none) v) := by
  have h : regAt 0x00 = some .cmd := regAt_offset .cmd
  rw [step_write]
  unfold busWriteErr busWrite
  rw [h]
  rfl

/-- A sequencer turn while BUSY = 1 (40_command_issue.md R355). -/
theorem step_sequencer_busy {s : State} (h : s.busy = true) :
    step (sequencerTurn s) = complete (respond s .none) := by
  simp [step, runTurn, sequencerStep, h]

/-- Everything a host write can do to the state. -/
inductive WriteEffect (s : State) (a : BitVec 8) (v : Word) : State → Prop
  /-- unmapped, misaligned or read-only -/
  | ignored : WriteEffect s a v s
  /-- a read-write register while busy -/
  | dropped (r : Reg) (hr : regAt a = some r) (ha : r.access = .rw) (hb : s.busy = true) :
      WriteEffect s a v (setOvr s)
  /-- a read-write register while idle -/
  | stored (r : Reg) (hr : regAt a = some r) (ha : r.access = .rw) (hb : s.busy = false) :
      WriteEffect s a v (writeReg s r v)
  /-- SRST written to CMD -/
  | reset (ha : a = 0x00) (hv : v = srstWord) : WriteEffect s a v (applyReset s)
  /-- a command written while busy -/
  | busyCommand (ha : a = 0x00) (hv : v ≠ srstWord) (hb : s.busy = true) : WriteEffect s a v (setOvr s)
  /-- an illegal word written while idle -/
  | illegal (ha : a = 0x00) (hb : s.busy = false) (hl : legal v = false) :
      WriteEffect s a v (raiseError s .illegalCmd)
  /-- a command accepted -/
  | accepted (ha : a = 0x00) (hv : v ≠ srstWord) (hb : s.busy = false) (hl : legal v = true) :
      WriteEffect s a v (accept s v)

theorem writeEffect_of_busWrite {s t : State} {a : BitVec 8} {v : Word} (h : busWrite s a v = .next t) :
    WriteEffect s a v t := by
  rcases busWrite_cases s a v with ⟨-, hw⟩ | ⟨r, -, -, hw⟩ | ⟨r, hr, ha, hb, hw⟩ | ⟨r, hr, ha, hb, hw⟩ | ⟨ha, hw⟩
  · rw [hw] at h; cases h; exact .ignored
  · rw [hw] at h; cases h; exact .ignored
  · rw [hw] at h; cases h; exact .dropped r hr ha hb
  · rw [hw, Host.Outcome.next.injEq] at h; subst h; exact .stored r hr ha hb
  · rw [hw] at h
    rcases issue_cases s v with ⟨hv, hi⟩ | ⟨hv, hb, hi⟩ | ⟨hv, hb, hl, hi⟩ | ⟨hv, hb, hl, hi⟩
    · rw [hi] at h; cases h; exact .reset ha hv
    · rw [hi] at h; cases h; exact .busyCommand ha hv hb
    · rw [hi] at h; cases h; exact .illegal ha hb hl
    · rw [hi] at h; cases h; exact .accepted ha hv hb hl

/-- Everything a completion can do. -/
theorem complete_eq_next {s t : State} (h : complete s = .next t) :
    ∃ i u, decode s.pend = .ok i ∧ exec i s = .next u ∧ t = finish u := by
  unfold complete at h
  split at h
  · next i hi =>
    obtain ⟨u, hu, ht⟩ := mapNext_eq_next h
    exact ⟨i, u, hi, hu, ht⟩
  · cases h

/-- Everything a step can do. -/
inductive StepEffect (s : State) : State → Prop
  /-- a cycle of rst -/
  | rst (tx : Option BusTx) (hn : nextTurn s = .rst tx) : StepEffect s (resetCycle (startStep s) tx)
  /-- a host read -/
  | read (a : BitVec 8) (d : Word) (e : Bool) (hn : nextTurn s = .host (.read a)) :
      StepEffect s (respond (startStep s) (.readData d e))
  /-- a host write -/
  | write (a : BitVec 8) (v : Word) (e : Bool) (u : State) (hn : nextTurn s = .host (.write a v))
      (hu : WriteEffect (startStep s) a v u) : StepEffect s (respond u (.written e))
  /-- the sequencer's turn with nothing pending -/
  | idle (hn : nextTurn s = .sequencer) (hb : s.busy = false) : StepEffect s (startStep s)
  /-- a completion -/
  | completion (i : Instr) (u : State) (hc : completesNow s i) (hu : exec i (startStep s) = .next u) :
      StepEffect s (finish u)

@[simp] theorem startStep_busy (s : State) : (startStep s).busy = s.busy := by rfl
@[simp] theorem startStep_pend (s : State) : (startStep s).pend = s.pend := by rfl

theorem stepEffect_of_step {s t : State} (h : step s = .next t) : StepEffect s t := by
  unfold step runTurn at h
  split at h
  · next tx hn =>
    unfold hostStep at h
    split at h
    · next a => cases h; exact .read a _ _ hn
    · next a v =>
      obtain ⟨u, hu, rfl⟩ := mapNext_eq_next h
      exact .write a v _ u hn (writeEffect_of_busWrite hu)
  · next hn =>
    unfold sequencerStep at h
    split at h
    · next hb =>
      obtain ⟨i, u, hi, hu, rfl⟩ := complete_eq_next h
      exact .completion i u ⟨hn, hb, hi⟩ hu
    · next hb => cases h; exact .idle hn (by simpa using hb)
  · next tx hn => cases h; exact .rst tx hn

end Sys2Proof.Machine
end

