-- ==== Sys2Proof/Tests/Slice0.lean ====
section
/-! SUPPORT. The model's own tests: words of every command, ill-formed words, one-step tests whose results stand in
spec/95_test_vectors.md, and for every obligation with hypotheses a state that meets them. -/

namespace Sys2Proof.Tests

open Sys2Proof.Machine

/-! ### Words of every command, bit by bit from 30_encoding.md R300 and R303 -/

theorem test_decode_nop : decode 0b0000000000000000_00000000_00000000 = .ok .nop := by decide
theorem test_decode_srst : decode 0b0000000000000000_00000000_00000001 = .ok .srst := by decide
theorem test_decode_clrerr : decode 0b0000000000000000_00000000_00000010 = .ok .clrerr := by decide
theorem test_decode_b32begin : decode 0b0000000000000000_00000000_00010000 = .ok .b32begin := by decide
theorem test_decode_b32char : decode 0b0000000000000000_01001101_00010001 = .ok (.b32char 0x4D) := by decide
theorem test_decode_b32end : decode 0b0000000000000000_00000000_00010010 = .ok .b32end := by decide
theorem test_decode_keyclr : decode 0b0000000000000000_00000000_00011000 = .ok .keyclr := by decide
theorem test_decode_keybyte : decode 0b0000000000000000_10101010_00011001 = .ok (.keybyte 0xAA) := by decide
theorem test_decode_hmac : decode 0b0000000000000000_00000000_00100000 = .ok .hmac := by decide
theorem test_decode_hotp : decode 0b0000000000000000_00000000_00100001 = .ok .hotp := by decide
theorem test_decode_trunc : decode 0b0000000000000000_00000000_00110000 = .ok .trunc := by decide
theorem test_decode_mod : decode 0b0000000000000000_00000000_00110001 = .ok .mod := by decide

/-! ### Well-formedness: one ill-formed word for each check, and its refusal (R305) -/

theorem test_wf_opListed : opListed 0x00000032 = false ∧ wordWellFormed 0x00000032 = false ∧
    decode 0x00000032 = .error .unlistedOp := by decide

theorem test_wf_zeroFieldClear : opListed 0x00FF0011 = true ∧ zeroFieldClear 0x00FF0011 = false ∧
    wordWellFormed 0x00FF0011 = false ∧ decode 0x00FF0011 = .error .zeroFieldSet := by decide

theorem test_wf_immAllowed : opListed 0x0000FF20 = true ∧ zeroFieldClear 0x0000FF20 = true ∧
    immAllowed 0x0000FF20 = false ∧ wordWellFormed 0x0000FF20 = false ∧
    decode 0x0000FF20 = .error .immNotZero := by decide

/-- Every one of the 256 OP values with IMM8 = ZERO = 0: well formed exactly when a row matches. -/
theorem test_wf_every_op : ∀ op : Byte, wordWellFormed (op.setWidth 32) = legal (op.setWidth 32) := by decide +kernel

/-! ### One step on a small state -/

/-- What holds of the next state, if there is one. -/
def holdsNext (r : Result) (p : State → Bool) : Bool :=
  match nextOf r with
  | some s => p s
  | none => false

/-- A sequencer turn with the command word `w` pending. -/
def runWord (s : State) (w : Word) : Result := step (sequencerTurn { s with pend := w, busy := true })

/-- Key bytes as cells of the key buffer; the tests use no zero byte. -/
def cells (bs : List Byte) : Memory := bs.zipIdx.map fun c => (c.2, c.1)

/-- A state with a valid key. -/
def loaded (bs : List Byte) : State :=
  { State.reset with key := cells bs, keyLen := BitVec.ofNat 7 bs.length, keyValid := true }

/-- "12345678901234567890" -/
def rfcKey : List Byte :=
  [0x31, 0x32, 0x33, 0x34, 0x35, 0x36, 0x37, 0x38, 0x39, 0x30, 0x31, 0x32, 0x33, 0x34, 0x35, 0x36, 0x37, 0x38, 0x39, 0x30]

/-- The key of "JBSWY3DPEHPK3PXP". -/
def workKey : List Byte := [0x48, 0x65, 0x6C, 0x6C, 0x6F, 0x21, 0xDE, 0xAD, 0xBE, 0xEF]

/-- An open session. -/
def session (st : DecoderState) (pos : BitVec 3) (acc : BitVec 12) (nbits : BitVec 3) (bs : List Byte) : State :=
  { State.reset with b32st := st, b32pos := pos, acc := acc, nbits := nbits, key := cells bs,
                     keyLen := BitVec.ofNat 7 bs.length }

/-- HOTP pending on the RFC key. -/
def busyHotp : State := { loaded rfcKey with pend := 0x00000021, busy := true }

/-- The digest of section 5.1 with byte 19 = 0xF0 + off. -/
def offsetDigest (off : Word) : Digest := ⟨0xA0A1A2A3, 0xA4A5A6A7, 0xA8A9AAAB, 0xACADAEAF, 0xB0B1B2F0 + off⟩

/-- X1 -/
theorem test_nop_changes_nothing : nextOf (runWord State.reset 0x00000000) = some State.reset := by decide

/-- X10 -/
theorem test_srst_while_busy : holdsNext (step (hostTurn busyHotp (.write 0x00 0x00000001)))
    (fun t => statusWord t = 0 && t.key == [] && t.keyLen == 0) = true := by decide

/-- X8 -/
theorem test_clrerr : holdsNext (runWord { State.reset with err := .illegalCmd, ovr := true } 0x00000002)
    (fun t => statusWord t = 0) = true := by decide

/-- K11 -/
theorem test_b32begin_drops_key : holdsNext (runWord (loaded [0x61, 0x62]) 0x00000010)
    (fun t => statusWord t = 0x00000010 && t.key.read 0 == 0 && t.keyLen == 0) = true := by decide

/-- Section 3.2, 'Z' after 'M'. -/
theorem test_b32char_emits_byte : holdsNext (runWord (session .data 1 0x00C 5 []) 0x00005A11)
    (fun t => t.acc == 0x001 && t.nbits == 2 && t.b32pos == 2 && t.keyLen == 1 && t.key.read 0 == 0x66) = true := by
  decide

/-- Section 3.4, 'A' after "MY=". -/
theorem test_b32char_data_after_pad : holdsNext (runWord (session .pad 3 0x000 2 [0x66]) 0x00004111)
    (fun t => statusWord t = 0x00003240 && t.nbits == 2 && t.keyLen == 1) = true := by decide

/-- B5, the end of "MZXW6YQ=". -/
theorem test_b32end_valid : holdsNext (runWord (session .full 0 0x000 3 [0x66, 0x6F, 0x6F, 0x62]) 0x00000012)
    (fun t => statusWord t = 0x00000002 && t.nbits == 0 && keyWord t 0 == 0x666F6F62) = true := by decide

/-- B30, the end of "MY=====". -/
theorem test_b32end_inside_padding : holdsNext (runWord (session .pad 7 0x000 2 [0x66]) 0x00000012)
    (fun t => statusWord t = 0x00000300 && t.keyLen == 1) = true := by decide

/-- K12 -/
theorem test_keyclr_abandons_session : holdsNext (runWord (session .error 3 0x000 2 [0x66]) 0x00000018)
    (fun t => statusWord t = 0x00000002 && t.keyLen == 0 && t.key == [] && t.nbits == 0) = true := by decide

/-- K5 -/
theorem test_keybyte_appends : holdsNext (runWord (loaded [0x66]) 0x00004119)
    (fun t => statusWord t = 0x00000002 && t.keyLen == 2 && keyBytes t == [0x66, 0x41]) = true := by decide

/-- K8 -/
theorem test_keybyte_overflow : holdsNext (runWord (loaded (List.replicate 64 0xFF)) 0x0000AA19)
    (fun t => statusWord t = 0x00000400 && t.keyLen == 64) = true := by decide

/-- H1 -/
theorem test_hmac_rfc_key : holdsNext (exec .hmac (loaded rfcKey))
    (fun t => t.mac == ⟨0xCC93CF18, 0x508D9493, 0x4C64B65D, 0x8BA7667F, 0xB7CDE4B0⟩ && t.hotpVal == 0) = true := by
  decide +kernel

/-- X13 -/
theorem test_hmac_no_key : holdsNext (runWord State.reset 0x00000020)
    (fun t => statusWord t = 0x00000500 && t.mac == Digest.zero) = true := by decide

/-- P2 -/
theorem test_hotp_work_key : holdsNext (exec .hotp { loaded workKey with ctrLo := 1 })
    (fun t => t.hotpVal == 0x79B6650A && t.code == 0x000F34CA && t.codeBcd == 0x00996554) = true := by decide +kernel

/-- X20 -/
theorem test_hotp_keeps_first_error : holdsNext (runWord { State.reset with err := .b32Char } 0x00000021)
    (fun t => statusWord t = 0x00000100) = true := by decide

/-- Section 5.1, offset 15. -/
theorem test_trunc_offset_15 : holdsNext (runWord { State.reset with mac := offsetDigest 15 } 0x00000030)
    (fun t => t.hotpVal == 0x2FB0B1B2) = true := by decide

/-- Section 5.1, offset 2. -/
theorem test_trunc_offset_2 : holdsNext (runWord { State.reset with mac := offsetDigest 2 } 0x00000030)
    (fun t => t.hotpVal == 0x22A3A4A5) = true := by decide

/-- Section 5.2, 0xFFFFFFFF. -/
theorem test_mod_top : holdsNext (exec .mod { State.reset with hotpVal := 0xFFFFFFFF })
    (fun t => t.code == 0x000EC27F && t.codeBcd == 0x00967295) = true := by decide +kernel

/-- Section 5.2, 0x000F4240. -/
theorem test_mod_modulus : holdsNext (exec .mod { State.reset with hotpVal := 0x000F4240 })
    (fun t => t.code == 0 && t.codeBcd == 0) = true := by decide +kernel

/-- Section 5.2 through the datapath of 43_truncate_modulo.md R612. -/
theorem test_mod_datapath :
    ((ModUnit.reset.run 0x79B6650A).1.rem = 0xF34CA ∧ (ModUnit.reset.run 0x79B6650A).2 = 0x996554) := by decide +kernel

/-- X2 -/
theorem test_illegal_word : holdsNext (step (hostTurn State.reset (.write 0x00 0x00000003)))
    (fun t => statusWord t = 0x00000700) = true := by decide

/-- X9 -/
theorem test_busy_word_dropped : holdsNext (step (hostTurn busyHotp (.write 0x00 0x00000003)))
    (fun t => statusWord t = 0x00000007 && t.pend == 0x00000021) = true := by decide

/-- X11 -/
theorem test_busy_write_dropped : holdsNext (step (hostTurn busyHotp (.write 0x08 5)))
    (fun t => t.ctrLo == 0 && t.ovr) = true := by decide

/-- X17, X18 -/
theorem test_bus_errors :
    holdsNext (step (hostTurn State.reset (.read 0x34))) (fun t => t.resp == .readData 0 true) = true ∧
    holdsNext (step (hostTurn State.reset (.read 0x06))) (fun t => t.resp == .readData 0 true) = true ∧
    holdsNext (step (hostTurn State.reset (.write 0x09 1))) (fun t => t.resp == .written true && t.ctrLo == 0) = true := by
  decide

/-- Section 3.3, the end of "JBSWY3DPEHPK3PXP": KEYW1 and KEYW2. -/
theorem test_key_window :
    holdsNext (step (hostTurn (loaded workKey) (.read 0x44))) (fun t => t.resp == .readData 0x6F21DEAD false) = true ∧
    holdsNext (step (hostTurn (loaded workKey) (.read 0x48))) (fun t => t.resp == .readData 0xBEEF0000 false) = true := by
  decide

/-- The host's interface: a placed command is the next step's (30_encoding.md R303). -/
theorem test_placed_command : decodeTableWord 32 0x00004119 = some (.keybyte 0x41) ∧
    holdsNext (step ((loaded [0x66]).withFetchWord 32 0x00004119)) (fun t => keyBytes t == [0x66, 0x41]) = true := by
  decide

/-! ### Witnesses: for every obligation with hypotheses, states and operands that meet them, clause by clause -/

theorem witness_DecodeThenEncode : decode 0x00004D11 = .ok (.b32char 0x4D) := by decide

theorem witness_NoTwoRowsMatchOneWord :
    ∃ r₁ ∈ rows, ∃ r₂ ∈ rows, r₁.covers 0x0000FF19 = true ∧ r₂.covers 0x0000FF19 = true := by decide

/-- The ends of the ranges of unlisted OP values, the lowest and highest bit of ZERO, and IMM8. -/
theorem witness_IllegalWordsAsListed : State.reset.busy = false ∧
    ([0x03, 0x0F, 0x13, 0x17, 0x1A, 0x1F, 0x22, 0x2F, 0x32, 0xFF, 0x00010011, 0x80000000, 0x00000101] : List Word).all
      (fun w => !legal w) = true := by decide

theorem witness_StepRunsPendingCommand :
    (busyHotp.script = [] ∧ busyHotp.busy = true ∧ decode busyHotp.pend = .ok .hotp) ∧
    (∃ ts, (sequencerTurn busyHotp).script = .sequencer :: ts) ∧
    (State.reset.script = [] ∧ State.reset.busy = false) :=
  ⟨by decide, ⟨_, rfl⟩, by decide⟩

theorem witness_PlacedCommandRuns :
    (decode 0x0000AA19 = .ok (.keybyte 0xAA) ∧ Instr.keybyte 0xAA ≠ .srst) ∧ decode 0x00000001 = .ok .srst := by decide

theorem witness_IssueBranches :
    (busyHotp.busy = true ∧ (0x00000003 : Word) ≠ 0x00000001) ∧
    (State.reset.busy = false ∧ legal 0x00000003 = false) ∧
    (State.reset.busy = false ∧ legal 0x00000000 = true ∧ (0x00000000 : Word) ≠ 0x00000001) := by decide

theorem witness_DroppedCommandDisturbsNothing : busyHotp.busy = true ∧ (0x00000020 : Word) ≠ 0x00000001 := by decide

theorem witness_EveryPendingCommandCompletes : busyHotp.busy = true ∧ legal busyHotp.pend = true := by decide

/-- The invariant of a state with HOTP pending on the RFC key. -/
theorem busyHotp_inv : Inv busyHotp :=
  { spec :=
      { sessionHasNoKey := fun h => absurd rfl h
        idleIsClean := fun _ => ⟨rfl, rfl, rfl⟩
        keyLenBound := by decide
        keyTailZero := fun _ hi => Memory.read_above (n := 20) (by decide) hi
        shifterAligned := fun h => absurd h (by decide) }
    keyCanonical := by decide
    pendingIsLegal := fun _ => by decide
    padInsideQuantum := fun h => absurd h (by decide)
    fullAtBoundary := fun h => absurd h (by decide)
    codeInRange := by decide
    bcdMatchesCode := by decide }

/-- The invariant of a session after "MZX" (section 3.2). -/
theorem session_inv : Inv (session .data 3 0x037 7 [0x66]) :=
  { spec :=
      { sessionHasNoKey := fun _ => rfl
        idleIsClean := fun h => absurd h (by decide)
        keyLenBound := by decide
        keyTailZero := fun _ hi => Memory.read_above (n := 1) (by decide) hi
        shifterAligned := fun _ => by decide }
    keyCanonical := by decide
    pendingIsLegal := fun h => absurd h (by decide)
    padInsideQuantum := fun h => absurd h (by decide)
    fullAtBoundary := fun h => absurd h (by decide)
    codeInRange := by decide
    bcdMatchesCode := by decide }

/-- The invariant does not look at the turns to come. -/
theorem inv_script {s : State} (h : Inv s) (ts : List Turn) : Inv { s with script := ts } :=
  ⟨⟨h.spec.1, h.spec.2, h.spec.3, h.spec.4, h.spec.5⟩, h.2, h.3, h.4, h.5, h.6, h.7⟩

theorem witness_RunEndsIdle : Inv { busyHotp with script := [.host (.write 0x08 5), .sequencer, .rst none] } :=
  inv_script busyHotp_inv _

theorem witness_TransactionInResetCycle :
    (∃ a, BusTx.read 0x14 = .read a) ∧ (∃ a v, BusTx.write 0x08 5 = .write a v) := ⟨⟨_, rfl⟩, ⟨_, _, rfl⟩⟩

theorem witness_MisalignedOrUnmapped :
    ∀ a ∈ ([0x01, 0x34, 0x38, 0x7F, 0x80, 0xFC, 0xFF] : List (BitVec 8)),
      a.toNat % 4 ≠ 0 ∨ a = 0x34 ∨ a = 0x38 ∨ 0x80 ≤ a.toNat := by decide

theorem witness_ReadOnlyWritesIgnored :
    ∀ a ∈ ([0x04, 0x14, 0x18, 0x1C, 0x3C, 0x40, 0x7C] : List (BitVec 8)),
      a = 0x04 ∨ a = 0x14 ∨ a = 0x18 ∨ a = 0x1C ∨ a = 0x3C ∨ (a.toNat % 4 = 0 ∧ 0x40 ≤ a.toNat ∧ a.toNat < 0x80) := by
  decide

theorem witness_BusyWritesDropped : busyHotp.busy = true ∧ (0x00000020 : Word) ≠ 0x00000001 ∧
    ∀ a ∈ ([0x08, 0x0C, 0x10, 0x20, 0x30] : List (BitVec 8)),
      a = 0x08 ∨ a = 0x0C ∨ a = 0x10 ∨ (a.toNat % 4 = 0 ∧ 0x20 ≤ a.toNat ∧ a.toNat ≤ 0x30) := by decide

theorem witness_IdleWritesStore : State.reset.busy = false := by decide

theorem witness_ReadsReturnRegisters : 0 < 16 ∧ 15 < 16 := by decide

theorem witness_BusyHostStepsKeepState : busyHotp.busy = true ∧ BusTx.read 0x04 ≠ .write 0x00 0x00000001 ∧
    BusTx.write 0x00 0x00000021 ≠ .write 0x00 0x00000001 := by decide

theorem witness_SpecInvariantKept :
    (SpecInv (session .data 3 0x037 7 [0x66]) ∧ ∃ t, step (session .data 3 0x037 7 [0x66]) = .next t) ∧
    State.reset.busy = false :=
  ⟨⟨session_inv.spec, _, rfl⟩, rfl⟩

theorem witness_InvariantStatesStepOn : Inv busyHotp ∧ Inv (session .data 3 0x037 7 [0x66]) :=
  ⟨busyHotp_inv, session_inv⟩

theorem witness_KeyBufferStaysCanonical : (loaded rfcKey).key.wf = true ∧ ∃ t, step (loaded rfcKey) = .next t :=
  ⟨by decide, _, rfl⟩

theorem witness_KeybyteAppends :
    ((loaded []).b32st = .idle ∧ (loaded []).keyValid = true ∧ (loaded []).keyLen.toNat < 64 ∧
      (loaded []).key.wf = true) ∧
    (let s := loaded (List.replicate 63 0xFF)
     s.b32st = .idle ∧ s.keyValid = true ∧ s.keyLen.toNat < 64 ∧ s.key.wf = true) := by decide

theorem witness_KeybyteErrors :
    (session .data 0 0 0 []).b32st ≠ .idle ∧ State.reset.keyValid = false ∧
    (let s := loaded (List.replicate 64 0xFF)
     s.b32st = .idle ∧ s.keyValid = true ∧ 64 ≤ s.keyLen.toNat) := by decide

/-- The ends of the two ranges, and the bytes beside them. -/
theorem witness_LookupTable : 0 < 26 ∧ 25 < 26 ∧ 0 < 6 ∧ 5 < 6 ∧
    ∀ c ∈ ([0x00, 0x31, 0x38, 0x3C, 0x3E, 0x40, 0x5B, 0x61, 0xFF] : List Byte),
      ¬(0x41 ≤ c.toNat ∧ c.toNat ≤ 0x5A) ∧ ¬(0x32 ≤ c.toNat ∧ c.toNat ≤ 0x37) ∧ c ≠ 0x3D := by decide

theorem witness_ShifterArithmetic :
    ((0 : BitVec 12).toNat < 2 ^ (0 : BitVec 3).toNat ∧ (0 : BitVec 3).toNat + 5 < 8) ∧
    ((3 : BitVec 12).toNat < 2 ^ (2 : BitVec 3).toNat ∧ (2 : BitVec 3).toNat + 5 < 8) ∧
    ((7 : BitVec 12).toNat < 2 ^ (3 : BitVec 3).toNat ∧ 8 ≤ (3 : BitVec 3).toNat + 5) ∧
    ((127 : BitVec 12).toNat < 2 ^ (7 : BitVec 3).toNat ∧ 8 ≤ (7 : BitVec 3).toNat + 5) := by decide

theorem witness_B32charData : lut 0x5A = .value 25 ∧
    (let s := session .data 2 0x003 2 [0x66]
     s.b32st = .data ∧ s.acc.toNat < 2 ^ s.nbits.toNat ∧ s.nbits.toNat < 3) ∧
    (let s := session .data 7 0x007 3 (List.replicate 63 0xFF)
     s.b32st = .data ∧ s.acc.toNat < 2 ^ s.nbits.toNat ∧ 3 ≤ s.nbits.toNat ∧ s.keyLen.toNat < 64 ∧ s.key.wf = true) ∧
    (let s := session .data 7 0x000 3 (List.replicate 64 0xFF)
     s.b32st = .data ∧ s.acc.toNat < 2 ^ s.nbits.toNat ∧ 3 ≤ s.nbits.toNat ∧ 64 ≤ s.keyLen.toNat) := by decide

theorem witness_B32charPaddingAndErrors :
    State.reset.b32st = .idle ∧
    (session .error 3 0 2 []).b32st = .error ∧
    ((session .data 0 0 0 []).b32st = .data ∧ (session .pad 3 0 2 []).b32st = .pad ∧
      (session .full 0 0 2 []).b32st = .full ∧ lut 0x31 = .invalid) ∧
    ((session .data 2 0 2 []).b32st = .data ∧ lut 0x3D = .pad ∧ (session .data 2 0 2 []).b32pos = 2) ∧
    ((session .pad 7 0 2 []).b32st = .pad ∧ (session .data 7 0 3 []).b32st = .data ∧ (session .pad 7 0 2 []).b32pos = 7 ∧
      (session .data 7 0 3 []).b32pos = 7) ∧
    ((session .data 0 0 0 []).b32pos = 0 ∧ (session .data 6 0 6 []).b32pos = 6) ∧
    (session .pad 6 0 2 []).b32pos ≠ 7 ∧
    lut 0x41 = .value 0 := by decide

theorem witness_FailingCharacterFrame : (session .data 0 0 0 []).b32st ≠ .error ∧
    ∃ t, exec (.b32char 0x31) (session .data 0 0 0 []) = .next t ∧ t.b32st = .error :=
  ⟨by decide, _, rfl, by decide⟩

theorem witness_B32endCloses :
    State.reset.b32st = .idle ∧ (session .error 3 0 2 []).b32st = .error ∧ (session .full 0 0 3 []).b32st = .full ∧
    ((session .data 0 0 0 []).b32st = .data ∧ (session .data 0 0 0 []).b32pos = 0) ∧
    (session .pad 7 0 2 []).b32st = .pad ∧
    ((session .data 1 0 5 []).b32st = .data ∧ (session .data 1 0 5 []).b32pos ≠ 0) := by decide

theorem witness_KeyLoadingFrame :
    (∃ t, exec .b32begin (loaded rfcKey) = .next t) ∧ (∃ t, exec .b32end (session .full 0 0 3 []) = .next t) ∧
    (∃ t, exec .keyclr (loaded rfcKey) = .next t) ∧ (∃ t, exec (.b32char 0x41) (session .data 0 0 0 []) = .next t) ∧
    (∃ t, exec (.keybyte 0x41) (loaded rfcKey) = .next t) :=
  ⟨⟨_, rfl⟩, ⟨_, rfl⟩, ⟨_, rfl⟩, ⟨_, rfl⟩, ⟨_, rfl⟩⟩

/-- "MY======", the longest valid string (103 data characters) and one character more, "1230". -/
theorem witness_SessionDecodesString : State.reset.busy = false ∧ State.reset.err = .none ∧
    (∀ str ∈ ([[], [0x4D, 0x59, 0x3D, 0x3D, 0x3D, 0x3D, 0x3D, 0x3D], List.replicate 103 0x41 ++ [0x3D]] : List (List Byte)),
      validText str = true ∧ 5 * (dataPart str).length / 8 ≤ 64) ∧
    (∀ str ∈ ([[0x31, 0x32, 0x33, 0x30], List.replicate 104 0x41] : List (List Byte)),
      ¬(validText str = true ∧ 5 * (dataPart str).length / 8 ≤ 64)) := by decide +kernel

theorem witness_HmacCompletes : (loaded rfcKey).keyValid = true ∧ (loaded []).keyValid = true := by decide

theorem witness_NoKeyNoResult : State.reset.keyValid = false := by decide

theorem witness_MacIsHmacSha1 :
    ((loaded []).keyValid = true ∧ (loaded []).keyLen.toNat ≤ 64 ∧
      ∀ i, (loaded []).keyLen.toNat ≤ i → (loaded []).key.read i = 0) ∧
    (let s := loaded (List.replicate 64 0xFF)
     s.keyValid = true ∧ s.keyLen.toNat ≤ 64 ∧ ∀ i, s.keyLen.toNat ≤ i → s.key.read i = 0) :=
  ⟨⟨rfl, by decide, fun _ _ => rfl⟩,
   ⟨rfl, by decide, fun _ hi => Memory.read_above (n := 64) (by decide) hi⟩⟩

theorem witness_CircularScheduleYieldsWords : 0 < 80 ∧ 15 < 80 ∧ 79 < 80 ∧ 16 ≤ 16 ∧ 16 ≤ 79 := by decide

theorem witness_PaddingRule : ([] : List Byte).length < 2 ^ 61 ∧ (rfcKey ++ rfcKey ++ rfcKey).length < 2 ^ 61 ∧
    ([] : List Byte).length ≤ 64 ∧ (List.replicate 64 (0xFF : Byte)).length ≤ 64 := by decide

theorem witness_PhaseBlocksArePaddedMessages : (loaded rfcKey).keyLen.toNat ≤ 64 ∧
    ∀ i, (loaded rfcKey).keyLen.toNat ≤ i → (loaded rfcKey).key.read i = 0 :=
  ⟨by decide, fun _ hi => Memory.read_above (n := 20) (by decide) hi⟩

theorem witness_HotpCompletes : (loaded rfcKey).keyValid = true := by decide

theorem witness_HotpIsHmacTruncMod : (loaded workKey).keyValid = true := by decide

theorem witness_ResultCommandFrame : (loaded rfcKey).keyValid = true ∧
    (∃ t, exec .hmac (loaded rfcKey) = .next t) ∧ (∃ t, exec .hotp (loaded rfcKey) = .next t) ∧
    (∃ t, exec .trunc State.reset = .next t) ∧ (∃ t, exec .mod State.reset = .next t) :=
  ⟨rfl, exec_answers _ _, exec_answers _ _, exec_answers _ _, exec_answers _ _⟩

theorem witness_KeyAndCounterDetermineCode :
    (let s := loaded rfcKey
     let s' := { loaded rfcKey with ovr := true, hotpVal := 7, err := .seq }
     s.keyValid = true ∧ s'.keyValid = true ∧ s.key = s'.key ∧ s.ctrHi = s'.ctrHi ∧ s.ctrLo = s'.ctrLo ∧
     (∃ t, exec .hmac s = .next t) ∧ (∃ t', exec .hmac s' = .next t') ∧ (∃ t, exec .hotp s = .next t) ∧
     (∃ t', exec .hotp s' = .next t')) :=
  ⟨rfl, rfl, rfl, rfl, rfl, exec_answers _ _, exec_answers _ _, exec_answers _ _, exec_answers _ _⟩

/-- A step from a state with nothing to do: no reset, no completion. -/
theorem idle_step (i : Instr) : (∃ t, step State.reset = .next t) ∧ ¬resetsNow State.reset ∧ ¬completesNow State.reset i := by
  refine ⟨⟨_, rfl⟩, ?_, ?_⟩ <;> simp [resetsNow, completesNow, nextTurn, State.reset]

theorem witness_OnlyHostWritesCounter : (∃ t, step State.reset = .next t) ∧ ¬resetsNow State.reset :=
  ⟨(idle_step .nop).1, (idle_step .nop).2.1⟩

theorem witness_CodeRegisters :
    ((∃ t, step State.reset = .next t) ∧ ¬resetsNow State.reset ∧ ¬completesNow State.reset .mod ∧
      ¬completesNow State.reset .hotp) ∧
    (∃ t, exec .mod State.reset = .next t) ∧ ((loaded rfcKey).keyValid = true ∧ ∃ t, exec .hotp (loaded rfcKey) = .next t) :=
  ⟨⟨(idle_step .mod).1, (idle_step .mod).2.1, (idle_step .mod).2.2, (idle_step .hotp).2.2⟩, exec_answers _ _, rfl,
    exec_answers _ _⟩

theorem witness_DigestAndHotpWriters : ((∃ t, step State.reset = .next t) ∧ ¬resetsNow State.reset) ∧
    (∃ t, exec .trunc State.reset = .next t) ∧
    ((loaded rfcKey).keyValid = true ∧ ∃ t, exec .hotp (loaded rfcKey) = .next t) :=
  ⟨witness_OnlyHostWritesCounter, exec_answers _ _, rfl, exec_answers _ _⟩

theorem witness_FirstErrorIsKept : ∃ s t : State, step s = .next t ∧ s.err ≠ .none :=
  ⟨{ State.reset with err := .seq }, _, rfl, by decide⟩

theorem witness_OvrIsSticky :
    (busyHotp.busy = true ∧ (0x20 : Word) ≠ 0x00000001 ∧
      ∀ a ∈ ([0x20, 0x30] : List (BitVec 8)), a.toNat % 4 = 0 ∧ 0x20 ≤ a.toNat ∧ a.toNat ≤ 0x30) ∧
    (∃ t, step (hostTurn busyHotp (.write 0x08 5)) = .next t ∧ (hostTurn busyHotp (.write 0x08 5)).ovr = false ∧
      t.ovr = true) ∧
    (∃ t, step (sequencerTurn { State.reset with busy := true, pend := 0x00000002, ovr := true }) = .next t ∧
      t.ovr = false) :=
  ⟨by decide, ⟨_, rfl, by decide, by decide⟩, ⟨_, rfl, by decide⟩⟩

theorem witness_KeyBufferChanges : (∃ t, step (loaded rfcKey) = .next t) ∧
    ∀ i, (loaded rfcKey).keyLen.toNat ≤ i → (loaded rfcKey).key.read i = 0 :=
  ⟨⟨_, rfl⟩, witness_PhaseBlocksArePaddedMessages.2⟩

theorem witness_ErrorPriority : (State.reset.err = .none ∧ ∃ t, exec (.b32char 0x41) State.reset = .next t) ∧
    (busyHotp.err = .none ∧ busyHotp.busy = true ∧ (0x00000003 : Word) ≠ 0x00000001) ∧
    (State.reset.busy = false ∧ legal 0x00000003 = false) :=
  ⟨⟨rfl, _, rfl⟩, by decide, by decide⟩

theorem witness_HiddenRegistersUnseen : ∃ t, step busyHotp = .next t := by
  have hd : decode (startStep busyHotp).pend = .ok .hotp := by decide
  obtain ⟨t, ht⟩ := exec_answers .hotp (startStep busyHotp)
  refine ⟨finish t, ?_⟩
  have hs : step busyHotp = sequencerStep (startStep busyHotp) := by rfl
  rw [hs, sequencerStep, if_pos (by decide), complete, hd]
  simp only [ht, mapNext_next]

end Sys2Proof.Tests
end

/-! PROOFS. The part of the state that only commands and resets write (the key buffer and the Base32 decoder), what a
step can do to it, said once, and the invariants of 10_state.md R117 derived from that. -/

namespace Sys2Proof.Machine

/-! ### The key buffer and the decoder as one view -/

/-- The registers of the key buffer and the Base32 decoder. No host write stores into them (10_state.md R101). -/
structure LoadPart where
  keyValid : Bool
  b32st : DecoderState
  b32pos : BitVec 3
  acc : BitVec 12
  nbits : BitVec 3
  keyLen : BitVec 7
  key : Memory

/-- The key buffer and the decoder of a state. -/
def loadPart (s : State) : LoadPart := ⟨s.keyValid, s.b32st, s.b32pos, s.acc, s.nbits, s.keyLen, s.key⟩

@[simp] theorem loadPart_startStep (s : State) : loadPart (startStep s) = loadPart s := by rfl
@[simp] theorem loadPart_respond (s : State) (r : BusResponse) : loadPart (respond s r) = loadPart s := by rfl
@[simp] theorem loadPart_finish (s : State) : loadPart (finish s) = loadPart s := by rfl
@[simp] theorem loadPart_raiseError (s : State) (c : ErrCode) : loadPart (raiseError s c) = loadPart s := by rfl
@[simp] theorem loadPart_setMac (s : State) (d : Digest) : loadPart (setMac s d) = loadPart s := by rfl
@[simp] theorem loadPart_writeHotp (s : State) (d : Digest) : loadPart (writeHotp s d) = loadPart s := by rfl
@[simp] theorem loadPart_releaseSha (s : State) : loadPart (releaseSha s) = loadPart s := by rfl
@[simp] theorem loadPart_releaseModu (s : State) : loadPart (releaseModu s) = loadPart s := by rfl

/-- What a step can do to the key buffer and the decoder. -/
inductive LoadStep (p : LoadPart) : LoadPart → Prop
  /-- nothing -/
  | kept : LoadStep p p
  /-- B32BEGIN (41_base32.md R410) -/
  | opened : LoadStep p ⟨false, .data, 0, 0, 0, 0, []⟩
  /-- KEYCLR (R440), and a reset (70_reset_and_hazards.md R900) -/
  | emptied (v : Bool) : LoadStep p ⟨v, .idle, 0, 0, 0, 0, []⟩
  /-- B32END on an open session (R430) -/
  | closed (v : Bool) : LoadStep p { p with keyValid := v, b32st := .idle, b32pos := 0, acc := 0, nbits := 0 }
  /-- a data character that completes no byte (R420) -/
  | shifted (v : BitVec 5) (hs : p.b32st = .data) :
      LoadStep p { p with acc := (shift p.acc p.nbits v).acc, nbits := (shift p.acc p.nbits v).nbits,
                          b32pos := p.b32pos + 1 }
  /-- a data character that completes a byte (R420, R422) -/
  | byteShifted (v : BitVec 5) (b : Byte) (hs : p.b32st = .data) (hl : p.keyLen.toNat < 64) :
      LoadStep p { p with acc := (shift p.acc p.nbits v).acc, nbits := (shift p.acc p.nbits v).nbits,
                          b32pos := p.b32pos + 1, keyLen := p.keyLen + 1, key := p.key.write p.keyLen.toNat b }
  /-- '=' that leaves the padding open (R420) -/
  | padded (hs : p.b32st = .data ∨ p.b32st = .pad) (hp : p.b32pos ≠ 7) :
      LoadStep p { p with b32st := .pad, b32pos := p.b32pos + 1 }
  /-- '=' that completes the quantum (R420) -/
  | completed (hs : p.b32st = .data ∨ p.b32st = .pad) (hp : p.b32pos = 7) :
      LoadStep p { p with b32st := .full, b32pos := p.b32pos + 1 }
  /-- a failing character of an open session (R420, D26) -/
  | failed (hs : p.b32st ≠ .idle) : LoadStep p { p with b32st := .error }
  /-- KEYBYTE (R441) -/
  | appended (b : Byte) (hl : p.keyLen.toNat < 64) :
      LoadStep p { p with keyLen := p.keyLen + 1, key := p.key.write p.keyLen.toNat b }
  /-- KEYBYTE on a full key (R441) -/
  | invalidated : LoadStep p { p with keyValid := false }

theorem loadStep_failChar {s : State} (c : ErrCode) (hs : s.b32st ≠ .idle) :
    LoadStep (loadPart s) (loadPart (failChar s c)) := .failed hs

theorem loadStep_dataChar {s : State} (v : BitVec 5) (hs : s.b32st = .data) :
    LoadStep (loadPart s) (loadPart (dataChar s v)) := by
  rcases dataChar_cases s v with ⟨-, h⟩ | ⟨b, -, -, h⟩ | ⟨b, -, hl, h⟩ <;> rw [h]
  · exact .shifted v hs
  · exact loadStep_failChar _ (by simp [hs])
  · exact .byteShifted v b hs hl

theorem loadStep_decodeChar (s : State) (c : Byte) : LoadStep (loadPart s) (loadPart (decodeChar s c)) := by
  rcases decodeChar_cases s c with ⟨-, h⟩ | ⟨-, h⟩ | ⟨hs, -, -, h⟩ | ⟨v, hs, -, h⟩ | ⟨hs, -, hp, h⟩ | ⟨hs, -, -, h⟩ |
    ⟨hs, -, hp, h⟩ | ⟨hs, -, hp, h⟩ | ⟨hs, -, h⟩ | ⟨hs, -, h⟩ <;> rw [h]
  · exact .kept
  · exact .kept
  · exact loadStep_failChar _ hs
  · exact loadStep_dataChar v hs
  · by_cases h7 : s.b32pos = 7
    · rw [if_pos h7]; exact .completed (.inl hs) h7
    · rw [if_neg h7]; exact .padded (.inl hs) h7
  · exact loadStep_failChar _ (by simp [hs])
  · exact .completed (.inr hs) hp
  · have := LoadStep.padded (p := loadPart s) (.inr hs) hp
    rwa [show DecoderState.pad = (loadPart s).b32st from hs.symm] at this
  · exact loadStep_failChar _ (by simp [hs])
  · exact loadStep_failChar _ (by simp [hs])

theorem loadStep_endSession (s : State) : LoadStep (loadPart s) (loadPart (endSession s)) := by
  rcases endSession_cases s with ⟨-, h⟩ | ⟨-, h⟩ | ⟨-, h⟩ | ⟨-, h⟩ <;> rw [h]
  · exact .kept
  · exact .closed s.keyValid
  · exact .closed true
  · exact .closed s.keyValid

theorem loadStep_rawKeyByte (s : State) (b : Byte) : LoadStep (loadPart s) (loadPart (rawKeyByte s b)) := by
  rcases rawKeyByte_cases s b with ⟨-, h⟩ | ⟨-, -, -, h⟩ | ⟨-, -, hl, h⟩ <;> rw [h]
  · exact .kept
  · exact .invalidated
  · exact .appended b hl

theorem loadStep_applyReset (s : State) : LoadStep (loadPart s) (loadPart (applyReset s)) := .emptied false

/-- A command does one of these things to the key buffer and the decoder. -/
theorem loadStep_of_exec {i : Instr} {s t : State} (h : exec i s = .next t) : LoadStep (loadPart s) (loadPart t) := by
  cases i
  case hmac => rcases exec_hmac_cases h with ⟨-, rfl⟩ | ⟨-, rfl⟩ <;> simp [LoadStep.kept]
  case hotp => rcases exec_hotp_cases h with ⟨-, rfl⟩ | ⟨-, rfl⟩ <;> simp [LoadStep.kept]
  all_goals cases h
  case srst => exact loadStep_applyReset s
  case b32begin => exact .opened
  case b32char c => exact loadStep_decodeChar s c
  case b32end => exact loadStep_endSession s
  case keyclr => exact .emptied true
  case keybyte b => exact loadStep_rawKeyByte s b
  all_goals exact .kept

@[simp] theorem loadPart_writeReg (s : State) (r : Reg) (v : Word) : loadPart (writeReg s r v) = loadPart s := by
  cases r <;> rfl

/-- A host write resets the key buffer and the decoder or leaves them alone. -/
theorem loadStep_of_writeEffect {s u : State} {a : BitVec 8} {v : Word} (h : WriteEffect s a v u) :
    LoadStep (loadPart s) (loadPart u) := by
  cases h
  case reset => exact loadStep_applyReset s
  case stored => rw [loadPart_writeReg]; exact .kept
  all_goals exact .kept

theorem loadPart_resetCycle (s : State) (tx : Option BusTx) : loadPart (resetCycle s tx) = loadPart State.reset := by
  rcases tx with _ | _ | _ <;> rfl

/-- Every step does one of these things to the key buffer and the decoder. -/
theorem loadStep_of_step {s t : State} (h : step s = .next t) : LoadStep (loadPart s) (loadPart t) := by
  cases stepEffect_of_step h with
  | rst tx => rw [loadPart_resetCycle]; exact .emptied false
  | read a d e => exact .kept
  | write a v e u hn hu => simpa using loadStep_of_writeEffect hu
  | idle => exact .kept
  | completion i u hc hu => simpa using loadStep_of_exec hu

/-! ### The key buffer (10_state.md R115) -/

/-- The three ways the key buffer changes (R115). -/
inductive KeyChange (p q : LoadPart) : Prop
  | kept (hl : q.keyLen = p.keyLen) (hk : q.key = p.key)
  | emptied (hl : q.keyLen = 0) (hk : q.key = [])
  | appended (b : Byte) (hlt : p.keyLen.toNat < 64) (hl : q.keyLen.toNat = p.keyLen.toNat + 1)
      (hk : q.key = p.key.write p.keyLen.toNat b)

theorem LoadStep.keyChange {p q : LoadPart} (h : LoadStep p q) : KeyChange p q := by
  cases h
  case opened => exact .emptied rfl rfl
  case emptied => exact .emptied rfl rfl
  case byteShifted v b hs hl => exact .appended b hl (keyLen_succ hl) rfl
  case appended b hl => exact .appended b hl (keyLen_succ hl) rfl
  all_goals exact .kept rfl rfl

/-- R117 (c) is kept. -/
theorem KeyChange.keyLen_le {p q : LoadPart} (h : KeyChange p q) (hp : p.keyLen.toNat ≤ 64) : q.keyLen.toNat ≤ 64 := by
  cases h with
  | kept hl => rwa [hl]
  | emptied hl => simp [hl]
  | appended b hlt hl => omega

/-- R117 (d) is kept. -/
theorem KeyChange.tailZero {p q : LoadPart} (h : KeyChange p q) (hp : ∀ i, p.keyLen.toNat ≤ i → p.key.read i = 0) :
    ∀ i, q.keyLen.toNat ≤ i → q.key.read i = 0 := by
  intro i hi
  cases h with
  | kept hl hk => rw [hk]; exact hp i (by rwa [hl] at hi)
  | emptied hl hk => rw [hk, Memory.read_nil]
  | appended b hlt hl hk =>
    rw [hk, Memory.read_write_other _ _ _ _ (by omega)]
    exact hp i (by omega)

/-- The canonical form is kept. -/
theorem KeyChange.wf {p q : LoadPart} (h : KeyChange p q) (hp : p.key.wf = true) : q.key.wf = true := by
  cases h with
  | kept hl hk => rwa [hk]
  | emptied hl hk => rw [hk, Memory.wf_nil]
  | appended b hlt hl hk => rw [hk]; exact Memory.wf_write hlt hp

/-- Settles O25: a step keeps the buffer, empties it, or writes inside it. -/
theorem keyBufferStaysCanonical : Obligations.KeyBufferStaysCanonical :=
  fun _ _ hs h => (loadStep_of_step h).keyChange.wf hs

/-- Settles O57: the three cases of `KeyChange`. -/
theorem keyBufferChanges : Obligations.KeyBufferChanges := by
  refine ⟨fun i => rfl, fun s t h => ?_⟩
  have hc := (loadStep_of_step h).keyChange
  refine ⟨?_, hc.tailZero⟩
  cases hc with
  | kept hl hk => exact .inl ⟨hl, hk⟩
  | emptied hl hk => exact .inr (.inl ⟨hl, fun i => congrArg (·.read i) hk⟩)
  | appended b hlt hl hk =>
    exact .inr (.inr ⟨hlt, hl, fun i hi => (congrArg (·.read i) hk).trans (Memory.read_write_other _ _ _ _ hi)⟩)

/-! ### The decoder (10_state.md R117 (a), (b), (e); R105) -/

/-- The shifter's bit count is a residue mod 8 (41_base32.md R421). -/
theorem shift_nbits (a : BitVec 12) (n : BitVec 3) (v : BitVec 5) : (shift a n v).nbits.toNat = (n.toNat + 5) % 8 := by
  have hn := n.isLt
  unfold shift
  dsimp only
  split
  · rw [BitVec.toNat_ofNat]; omega
  · rw [BitVec.toNat_ofNat]

/-- The shifter keeps its precondition acc < 2^nb (R421). -/
theorem shift_acc_lt {a : BitVec 12} {n : BitVec 3} (v : BitVec 5) (h : a.toNat < 2 ^ n.toNat) :
    (shift a n v).acc.toNat < 2 ^ (shift a n v).nbits.toNat := by
  have hn := n.isLt
  rw [shift_nbits]
  unfold shift
  dsimp only
  split
  · next h8 =>
    have hm : (n.toNat + 5) % 8 = n.toNat + 5 - 8 := by omega
    rw [hm]
    rw [BitVec.toNat_ofNat]
    exact (Nat.mod_le _ _).trans_lt (Nat.mod_lt _ (by positivity))
  · next h8 =>
    rw [Nat.mod_eq_of_lt (by omega)]
    have hv : v.toNat < 2 ^ (n.toNat + 5) := v.isLt.trans_le (Nat.pow_le_pow_right (by decide) (by omega))
    have hs : (a <<< 5).toNat < 2 ^ (n.toNat + 5) := by
      rw [BitVec.toNat_shiftLeft, Nat.shiftLeft_eq, pow_add]
      exact (Nat.mod_le _ _).trans_lt (by omega)
    rw [BitVec.toNat_or, BitVec.toNat_setWidth]
    exact Nat.or_lt_two_pow hs ((Nat.mod_le _ _).trans_lt hv)

/-- A position moves on by one mod 8. -/
theorem toNat_pos_succ (p : BitVec 3) : (p + 1).toNat = (p.toNat + 1) % 8 := by simp [BitVec.toNat_add]

namespace LoadStep

variable {p q : LoadPart}

/-- R117 (a) is kept. -/
theorem sessionHasNoKey (h : LoadStep p q) (hp : p.b32st ≠ .idle → p.keyValid = false) :
    q.b32st ≠ .idle → q.keyValid = false := by
  cases h
  case padded hs h7 => exact fun _ => hp (by rcases hs with hs | hs <;> simp [hs])
  case completed hs h7 => exact fun _ => hp (by rcases hs with hs | hs <;> simp [hs])
  case failed hs => exact fun _ => hp hs
  case invalidated => exact fun _ => rfl
  case opened => exact fun _ => rfl
  case emptied v => exact fun h => absurd rfl h
  case closed v => exact fun h => absurd rfl h
  all_goals exact hp

/-- R117 (b) is kept. -/
theorem idleIsClean (h : LoadStep p q) (hp : p.b32st = .idle → p.b32pos = 0 ∧ p.acc = 0 ∧ p.nbits = 0) :
    q.b32st = .idle → q.b32pos = 0 ∧ q.acc = 0 ∧ q.nbits = 0 := by
  cases h
  case emptied v => exact fun _ => ⟨rfl, rfl, rfl⟩
  case closed v => exact fun _ => ⟨rfl, rfl, rfl⟩
  case shifted v hs => exact fun h => by simp [hs] at h
  case byteShifted v b hs hl => exact fun h => by simp [hs] at h
  case kept => exact hp
  case appended => exact hp
  case invalidated => exact hp
  all_goals exact nofun

/-- What a data character leaves in the shifter meets R117 (e). -/
theorem shift_aligned (v : BitVec 5) (hn : p.nbits.toNat = 5 * p.b32pos.toNat % 8)
    (ha : p.acc.toNat < 2 ^ p.nbits.toNat) :
    (shift p.acc p.nbits v).nbits.toNat = 5 * (p.b32pos + 1).toNat % 8 ∧
      (shift p.acc p.nbits v).acc.toNat < 2 ^ (shift p.acc p.nbits v).nbits.toNat := by
  refine ⟨?_, shift_acc_lt v ha⟩
  rw [shift_nbits, toNat_pos_succ]
  omega

/-- R117 (e) is kept. -/
theorem shifterAligned (h : LoadStep p q)
    (hp : p.b32st = .data → p.nbits.toNat = 5 * p.b32pos.toNat % 8 ∧ p.acc.toNat < 2 ^ p.nbits.toNat) :
    q.b32st = .data → q.nbits.toNat = 5 * q.b32pos.toNat % 8 ∧ q.acc.toNat < 2 ^ q.nbits.toNat := by
  cases h
  case opened => exact fun _ => by decide
  case shifted v hs => exact fun _ => shift_aligned v (hp hs).1 (hp hs).2
  case byteShifted v b hs hl => exact fun _ => shift_aligned v (hp hs).1 (hp hs).2
  case kept => exact hp
  case appended => exact hp
  case invalidated => exact hp
  all_goals exact nofun

/-- PAD is inside the quantum (R105), kept. -/
theorem padInsideQuantum (h : LoadStep p q) (hp : p.b32st = .pad → p.b32pos ≠ 0) : q.b32st = .pad → q.b32pos ≠ 0 := by
  cases h
  case padded hs h7 =>
    intro _ h0
    exact h7 (by simpa using eq_neg_of_add_eq_zero_left h0)
  case shifted v hs => exact fun h => by simp [hs] at h
  case byteShifted v b hs hl => exact fun h => by simp [hs] at h
  case kept => exact hp
  case appended => exact hp
  case invalidated => exact hp
  all_goals exact nofun

/-- FULL is at the quantum's end (R105), kept. -/
theorem fullAtBoundary (h : LoadStep p q) (hp : p.b32st = .full → p.b32pos = 0) : q.b32st = .full → q.b32pos = 0 := by
  cases h
  case completed hs h7 => exact fun _ => by simp [h7]
  case shifted v hs => exact fun h => by simp [hs] at h
  case byteShifted v b hs hl => exact fun h => by simp [hs] at h
  case kept => exact hp
  case appended => exact hp
  case invalidated => exact hp
  all_goals exact nofun

end LoadStep

/-- Every step keeps R117 (a) to (e). -/
theorem specInv_of_step {s t : State} (hs : SpecInv s) (h : step s = .next t) : SpecInv t :=
  have hl := loadStep_of_step h
  { sessionHasNoKey := hl.sessionHasNoKey hs.sessionHasNoKey
    idleIsClean := hl.idleIsClean hs.idleIsClean
    keyLenBound := hl.keyChange.keyLen_le hs.keyLenBound
    keyTailZero := hl.keyChange.tailZero hs.keyTailZero
    shifterAligned := hl.shifterAligned hs.shifterAligned }

theorem specInv_reset (ts : List Turn) : SpecInv { State.reset with script := ts } :=
  ⟨fun _ => rfl, fun _ => ⟨rfl, rfl, rfl⟩, Nat.zero_le _, fun _ _ => rfl, nofun⟩

end Sys2Proof.Machine

/-! PROOFS. R117 (f), the answers of a step, the result registers, and the model's invariant. -/

namespace Sys2Proof.Machine

/-! ### A step answers -/

/-- Only a completion of a word that does not decode stops the machine (log entry 9). -/
theorem step_answers {s : State} (h : s.busy = true → legal s.pend = true) : ∃ t, step s = .next t := by
  unfold step runTurn
  split
  · next tx _ =>
    cases tx with
    | read a => exact ⟨_, rfl⟩
    | write a v =>
      obtain ⟨u, hu⟩ := busWrite_answers (startStep s) a v
      exact ⟨_, by rw [hostStep, hu, mapNext_next]⟩
  · unfold sequencerStep
    split
    · next hb =>
      obtain ⟨i, hi⟩ := (legal_iff_decode _).1 (h hb)
      obtain ⟨u, hu⟩ := exec_answers i (startStep s)
      exact ⟨finish u, by rw [complete, startStep_pend, hi, ← mapNext_next, ← hu]⟩
    · exact ⟨_, rfl⟩
  · exact ⟨_, rfl⟩

/-! ### PEND while BUSY = 0 (10_state.md R117 (f)) -/

/-- PEND <- w, and nothing else. -/
def withPend (w : Word) (s : State) : State := { s with pend := w }

/-- Two states that agree, or that differ in PEND only. -/
def SameButPend (w : Word) (t u : State) : Prop := u = t ∨ u = withPend w t

@[simp] theorem withPend_busy (w : Word) (s : State) : (withPend w s).busy = s.busy := by rfl
@[simp] theorem startStep_withPend (w : Word) (s : State) : startStep (withPend w s) = withPend w (startStep s) := by rfl
@[simp] theorem nextTurn_withPend (w : Word) (s : State) : nextTurn (withPend w s) = nextTurn s := by rfl
@[simp] theorem applyReset_withPend (w : Word) (s : State) : applyReset (withPend w s) = applyReset s := by rfl
@[simp] theorem accept_withPend (w v : Word) (s : State) : accept (withPend w s) v = accept s v := by rfl

@[simp] theorem readReg_withPend (w : Word) (s : State) (r : Reg) : readReg (withPend w s) r = readReg s r := by
  cases r <;> rfl

@[simp] theorem busRead_withPend (w : Word) (s : State) (a : BitVec 8) : busRead (withPend w s) a = busRead s a := by
  unfold busRead
  cases regAt a <;> simp

@[simp] theorem writeReg_withPend (w : Word) (s : State) (r : Reg) (v : Word) :
    writeReg (withPend w s) r v = withPend w (writeReg s r v) := by
  cases r <;> rfl

@[simp] theorem resetCycle_withPend (w : Word) (s : State) (tx : Option BusTx) :
    resetCycle (withPend w s) tx = resetCycle s tx := by
  rcases tx with _ | _ | _ <;> rfl

theorem SameButPend.respond {w : Word} {t u : State} (h : SameButPend w t u) (r : BusResponse) :
    SameButPend w (respond t r) (respond u r) := by
  rcases h with rfl | rfl
  · exact .inl rfl
  · exact .inr rfl

/-- An idle issue does not depend on PEND. -/
theorem issue_withPend {s : State} (hb : s.busy = false) (w v : Word) :
    ∃ t u, issue s v = .next t ∧ issue (withPend w s) v = .next u ∧ SameButPend w t u := by
  unfold issue
  rw [withPend_busy, hb]
  simp only [Bool.false_eq_true, if_false]
  split
  · exact ⟨_, _, rfl, rfl, .inr rfl⟩
  · split
    · exact ⟨_, _, rfl, rfl, .inl (applyReset_withPend w s)⟩
    · exact ⟨_, _, rfl, rfl, .inl (accept_withPend w v s)⟩

/-- An idle host write does not depend on PEND. -/
theorem busWrite_withPend {s : State} (hb : s.busy = false) (w : Word) (a : BitVec 8) (v : Word) :
    ∃ t u, busWrite s a v = .next t ∧ busWrite (withPend w s) a v = .next u ∧ SameButPend w t u := by
  unfold busWrite
  split
  · exact ⟨_, _, rfl, rfl, .inr rfl⟩
  · next r _ =>
    split
    · exact issue_withPend hb w v
    · exact ⟨_, _, rfl, rfl, .inr rfl⟩
    · rw [withPend_busy, hb]
      exact ⟨_, _, rfl, rfl, .inr (writeReg_withPend w s r v)⟩

/-- R117 (f): an idle step does not depend on PEND. -/
theorem step_withPend {s : State} (hb : s.busy = false) (w : Word) :
    ∃ t u, step s = .next t ∧ step (withPend w s) = .next u ∧ SameButPend w t u := by
  unfold step runTurn
  rw [nextTurn_withPend, startStep_withPend]
  split
  · next tx _ =>
    cases tx with
    | read a => exact ⟨_, _, rfl, rfl, .inr (by rw [busRead_withPend]; rfl)⟩
    | write a v =>
      obtain ⟨t, u, ht, hu, htu⟩ := busWrite_withPend ((startStep_busy s).trans hb) w a v
      exact ⟨_, _, by rw [hostStep, ht, mapNext_next], by rw [hostStep, hu, mapNext_next], htu.respond _⟩
  · simp only [sequencerStep, withPend_busy, startStep_busy, hb, Bool.false_eq_true, if_false]
    exact ⟨_, _, rfl, rfl, .inr rfl⟩
  · exact ⟨_, _, rfl, rfl, .inl (resetCycle_withPend w _ _)⟩

/-- Settles O22: (a) to (e) by `specInv_of_step`, (f) by `step_withPend`. -/
theorem specInvariantKept : Obligations.SpecInvariantKept :=
  ⟨specInv_reset [], fun _ _ => specInv_of_step, fun _ w hb => step_withPend hb w⟩

/-! ### The result registers (10_state.md R108 to R112) -/

/-- The result registers. -/
structure Results where
  mac : Digest
  hotpVal : Word
  code : Word
  codeBcd : Word

/-- The result registers of a state. -/
def results (s : State) : Results := ⟨s.mac, s.hotpVal, s.code, s.codeBcd⟩

@[simp] theorem results_startStep (s : State) : results (startStep s) = results s := by rfl
@[simp] theorem results_respond (s : State) (r : BusResponse) : results (respond s r) = results s := by rfl
@[simp] theorem results_finish (s : State) : results (finish s) = results s := by rfl
@[simp] theorem results_raiseError (s : State) (c : ErrCode) : results (raiseError s c) = results s := by rfl
@[simp] theorem results_setOvr (s : State) : results (setOvr s) = results s := by rfl
@[simp] theorem results_accept (s : State) (v : Word) : results (accept s v) = results s := by rfl
@[simp] theorem results_restartDecoder (s : State) (st : DecoderState) :
    results (restartDecoder s st) = results s := by rfl
@[simp] theorem results_setKeyValid (s : State) (v : Bool) : results (setKeyValid s v) = results s := by rfl
@[simp] theorem results_storeKeyByte (s : State) (b : Byte) : results (storeKeyByte s b) = results s := by rfl
@[simp] theorem results_clearKey (s : State) : results (clearKey s) = results s := by rfl
@[simp] theorem results_clearErrors (s : State) : results (clearErrors s) = results s := by rfl
@[simp] theorem results_applyReset (s : State) : results (applyReset s) = results State.reset := by rfl
@[simp] theorem results_releaseSha (s : State) : results (releaseSha s) = results s := by rfl
@[simp] theorem results_releaseModu (s : State) : results (releaseModu s) = results s := by rfl

@[simp] theorem results_decodeChar (s : State) (c : Byte) : results (decodeChar s c) = results s := by
  rw [decodeChar_frame]; rfl

@[simp] theorem results_endSession (s : State) : results (endSession s) = results s := by
  rcases endSession_cases s with ⟨-, h⟩ | ⟨-, h⟩ | ⟨-, h⟩ | ⟨-, h⟩ <;> simp [h]

@[simp] theorem results_rawKeyByte (s : State) (b : Byte) : results (rawKeyByte s b) = results s := by
  rcases rawKeyByte_cases s b with ⟨-, h⟩ | ⟨-, -, -, h⟩ | ⟨-, -, -, h⟩ <;> simp [h]

@[simp] theorem results_resetCycle (s : State) (tx : Option BusTx) :
    results (resetCycle s tx) = results State.reset := by
  rcases tx with _ | _ | _ <;> rfl

/-- CODE and CODE_BCD of a HOTP value: the reduced value and its digits (43_truncate_modulo.md R602, R603). -/
def Results.reduced (r : Results) : Results :=
  { r with code := BitVec.ofNat 32 (reduce r.hotpVal), codeBcd := BitVec.ofNat 32 (bcd6 (reduce r.hotpVal)) }

/-- HOTP_VAL of a digest (R601). -/
def Results.truncated (r : Results) : Results := { r with hotpVal := dynTrunc r.mac.bytes }

/-- What a command can do to the result registers. -/
inductive ResultEffect (r : Results) : Instr → Results → Prop
  /-- nothing -/
  | kept (i : Instr) : ResultEffect r i r
  /-- SRST -/
  | reset : ResultEffect r .srst (results .reset)
  /-- HMAC with a key (42_hmac_sha1.md R535) -/
  | digest (d : Digest) : ResultEffect r .hmac { r with mac := d }
  /-- TRUNC (R600) -/
  | truncated : ResultEffect r .trunc r.truncated
  /-- MOD (R610) -/
  | reduced : ResultEffect r .mod r.reduced
  /-- HOTP with a key (R620) -/
  | hotp (d : Digest) : ResultEffect r .hotp { r with mac := d }.truncated.reduced

/-- The result registers after MOD. -/
theorem results_of_mod {s t : State} (h : exec .mod s = .next t) : results t = (results s).reduced := by
  cases h; rfl

/-- The result registers after TRUNC. -/
theorem results_of_trunc {s t : State} (h : exec .trunc s = .next t) : results t = (results s).truncated := by
  cases h; rfl

theorem results_writeHotp (s : State) (d : Digest) :
    results (writeHotp s d) = { results s with mac := d }.truncated.reduced := by rfl

/-- The result registers after HOTP with a key. -/
theorem results_of_hotp {s t : State} (hk : s.keyValid = true) (h : exec .hotp s = .next t) :
    results t = { results s with mac := keyedDigest s }.truncated.reduced := by
  rw [exec_hotp_key hk, Host.Outcome.next.injEq] at h
  rw [← h, results_releaseModu, results_releaseSha, results_writeHotp]

/-- The result registers after any command. -/
theorem resultEffect_of_exec {i : Instr} {s t : State} (h : exec i s = .next t) :
    ResultEffect (results s) i (results t) := by
  cases i
  case hmac =>
    rcases exec_hmac_cases h with ⟨-, rfl⟩ | ⟨-, rfl⟩
    · rw [results_raiseError]; exact .kept _
    · rw [results_releaseSha]; exact .digest (keyedDigest s)
  case hotp =>
    cases hk : s.keyValid
    · cases (exec_hotp_noKey hk).symm.trans h; exact .kept _
    · rw [results_of_hotp hk h]; exact .hotp (keyedDigest s)
  case trunc => rw [results_of_trunc h]; exact .truncated
  case mod => rw [results_of_mod h]; exact .reduced
  all_goals cases h
  case srst => rw [results_applyReset]; exact .reset
  all_goals simp [ResultEffect.kept]

/-- What a step can do to the result registers. -/
inductive ResultStep (s t : State) : Prop
  /-- nothing -/
  | kept (h : results t = results s)
  /-- a cycle of rst, or SRST written to CMD -/
  | reset (hr : resetsNow s) (h : results t = results State.reset)
  /-- an idle host write to HOTP_VAL -/
  | storedHotpVal (v : Word) (hn : nextTurn s = .host (.write 0x10 v)) (hb : s.busy = false)
      (h : results t = { results s with hotpVal := v })
  /-- an idle host write to a MAC word -/
  | storedMac (i : Fin 5) (v : Word) (hn : nextTurn s = .host (.write (Reg.mac i).offset v)) (hb : s.busy = false)
      (h : results t = { results s with mac := s.mac.setWord i v })
  /-- a completion -/
  | command (i : Instr) (hc : completesNow s i) (h : ResultEffect (results s) i (results t))

/-- Everything a step can do to the result registers. -/
theorem resultStep_of_step {s t : State} (h : step s = .next t) : ResultStep s t := by
  cases stepEffect_of_step h with
  | rst tx hn => exact .reset (.inl ⟨tx, hn⟩) (results_resetCycle _ _)
  | read => exact .kept rfl
  | idle => exact .kept rfl
  | completion i u hc hu => exact .command i hc (by simpa using resultEffect_of_exec hu)
  | write a v e u hn hu =>
    cases hu with
    | reset ha hv =>
      subst ha hv
      exact .reset (.inr (.inl hn)) rfl
    | stored r hr ha hb =>
      have hoff := offset_of_regAt hr
      subst hoff
      rcases writeReg_cases ha (startStep s) v with ⟨-, hw⟩ | ⟨-, hw⟩ | ⟨rfl, hw⟩ | ⟨i, rfl, hw⟩ <;> rw [hw]
      · exact .kept rfl
      · exact .kept rfl
      · exact .storedHotpVal v hn hb rfl
      · exact .storedMac i v hn hb rfl
    | _ => exact .kept (by simp)

/-! #### Their values -/

/-- CODE is the reduced HOTP_VAL (R109). -/
theorem Results.reduced_code (r : Results) : r.reduced.code.toNat = r.reduced.hotpVal.toNat % 1000000 := by
  have hlt : r.hotpVal.toNat % 1000000 < 2 ^ 32 := by omega
  exact (BitVec.toNat_ofNat _ _).trans (Nat.mod_eq_of_lt hlt)

/-- Nibbles packed into a number, nibble k shifted left by 4k: the sum of R603 over any digits. -/
def nibbleSum (f : Nat → Nat) (n : Nat) : Nat := ((List.range n).map fun k => f k <<< (4 * k)).sum

theorem bcd6_eq_nibbleSum (y : Nat) : bcd6 y = nibbleSum (fun k => y / 10 ^ k % 10) 6 := by rfl

theorem nibbleSum_succ (f : Nat → Nat) (n : Nat) : nibbleSum f (n + 1) = nibbleSum f n + f n * 16 ^ n := by
  have hp : 2 ^ (4 * n) = 16 ^ n := pow_mul 2 4 n
  simp only [nibbleSum, List.range_succ, List.map_append, List.sum_append, List.map_singleton, List.sum_singleton,
    Nat.shiftLeft_eq, hp]

theorem nibbleSum_lt {f : Nat → Nat} (hf : ∀ k, f k < 16) (n : Nat) : nibbleSum f n < 16 ^ n := by
  induction n with
  | zero => exact Nat.one_pos
  | succ n ih =>
    have hle : f n * 16 ^ n ≤ 15 * 16 ^ n := Nat.mul_le_mul_right _ (Nat.le_of_lt_succ (hf n))
    rw [nibbleSum_succ, pow_succ]
    omega

/-- Nibble k of the packed number is digit k. -/
theorem nibbleSum_digit {f : Nat → Nat} (hf : ∀ k, f k < 16) {k n : Nat} (hk : k < n) :
    nibbleSum f n / 16 ^ k % 16 = f k := by
  induction n with
  | zero => exact absurd hk (Nat.not_lt_zero k)
  | succ n ih =>
    have hpos : 0 < 16 ^ k := by positivity
    rw [nibbleSum_succ]
    rcases Nat.lt_succ_iff_lt_or_eq.1 hk with hlt | rfl
    · obtain ⟨m, rfl⟩ := Nat.exists_eq_add_of_lt hlt
      have hsplit : f (k + m + 1) * 16 ^ (k + m + 1) = f (k + m + 1) * 16 ^ m * 16 * 16 ^ k := by ring
      rw [hsplit, Nat.add_mul_div_right _ _ hpos, Nat.add_mul_mod_self_right, ih hlt]
    · rw [Nat.add_mul_div_right _ _ hpos, Nat.div_eq_of_lt (nibbleSum_lt hf k), Nat.zero_add, Nat.mod_eq_of_lt (hf k)]

/-- A decimal digit fits in a nibble. -/
theorem digit_lt (y k : Nat) : y / 10 ^ k % 10 < 16 := by omega

/-- Six digits of four bits fit in 24 bits. -/
theorem bcd6_lt (y : Nat) : bcd6 y < 2 ^ 24 := nibbleSum_lt (digit_lt y) 6

/-- Nibble k of the digit sum is decimal digit k (R603). -/
theorem bcd6_digit (y : Nat) {k : Nat} (hk : k < 6) : bcd6 y / 2 ^ (4 * k) % 16 = y / 10 ^ k % 10 := by
  rw [pow_mul, bcd6_eq_nibbleSum]
  exact nibbleSum_digit (digit_lt y) hk

/-- CODE and CODE_BCD agree and CODE is in range (R109, R110). -/
structure Results.CodeSound (r : Results) : Prop where
  inRange : r.code.toNat ≤ 999999
  bcdMatches : r.codeBcd = BitVec.ofNat 32 (bcd6 r.code.toNat)

theorem Results.codeSound_reduced (r : Results) : r.reduced.CodeSound := by
  have hc : r.reduced.code.toNat = reduce r.hotpVal := r.reduced_code
  refine ⟨?_, by rw [hc]; rfl⟩
  rw [reduced_code]
  omega

theorem Results.codeSound_reset : (results State.reset).CodeSound := ⟨by decide, by decide⟩

/-- Every step keeps CODE in range and CODE_BCD its digits. -/
theorem codeSound_of_step {s t : State} (hs : (results s).CodeSound) (h : step s = .next t) : (results t).CodeSound := by
  cases resultStep_of_step h with
  | kept h => rwa [h]
  | reset _ h => rw [h]; exact Results.codeSound_reset
  | storedHotpVal v _ _ h => rw [h]; exact ⟨hs.inRange, hs.bcdMatches⟩
  | storedMac i v _ _ h => rw [h]; exact ⟨hs.inRange, hs.bcdMatches⟩
  | command i _ h =>
    generalize results t = q at h ⊢
    cases h with
    | kept => exact hs
    | reset => exact Results.codeSound_reset
    | digest d => exact ⟨hs.inRange, hs.bcdMatches⟩
    | truncated => exact ⟨hs.inRange, hs.bcdMatches⟩
    | reduced => exact Results.codeSound_reduced _
    | hotp d => exact Results.codeSound_reduced _

/-- Dynamic truncation clears bit 31 (R601). -/
theorem dynTrunc_lt (m : List Byte) : (dynTrunc m).toNat < 2 ^ 31 := by
  rw [dynTrunc, BitVec.toNat_and]
  exact Nat.and_lt_two_pow _ (by decide)

/-- What a reduction leaves in CODE and CODE_BCD, of a state with such result registers. -/
theorem code_of_reduced {t : State} {r : Results} (h : results t = r.reduced) :
    t.code.toNat = t.hotpVal.toNat % 1000000 ∧ t.code.toNat < 2 ^ 20 ∧
      (∀ k : Nat, k < 6 → t.codeBcd.toNat / 2 ^ (4 * k) % 16 = t.code.toNat / 10 ^ k % 10) ∧
      t.codeBcd.toNat / 2 ^ 24 = 0 := by
  have hcode : t.code.toNat = t.hotpVal.toNat % 1000000 := by
    have hr := r.reduced_code
    rwa [← h] at hr
  have hsound : (results t).CodeSound := h ▸ r.codeSound_reduced
  have hlt : bcd6 t.code.toNat < 2 ^ 24 := bcd6_lt _
  have hbcd : t.codeBcd.toNat = bcd6 t.code.toNat := by
    rw [show t.codeBcd = BitVec.ofNat 32 (bcd6 t.code.toNat) from hsound.bcdMatches, BitVec.toNat_ofNat,
      Nat.mod_eq_of_lt (hlt.trans (by decide))]
  refine ⟨hcode, by omega, fun k hk => by rw [hbcd, bcd6_digit _ hk], by rw [hbcd]; omega⟩

/-- Settles O53: the writers by `ResultStep`, the values by `code_of_reduced`. -/
theorem codeRegisters : Obligations.CodeRegisters := by
  refine ⟨fun s t h hr hm hh => ?_, ?_⟩
  · have key : (results t).code = (results s).code ∧ (results t).codeBcd = (results s).codeBcd := by
      cases resultStep_of_step h with
      | kept h => rw [h]; exact ⟨rfl, rfl⟩
      | reset hr' => exact absurd hr' hr
      | storedHotpVal v _ _ h => rw [h]; exact ⟨rfl, rfl⟩
      | storedMac i v _ _ h => rw [h]; exact ⟨rfl, rfl⟩
      | command i hc h =>
        generalize results t = q at h ⊢
        cases h with
        | reset => exact absurd (.inr (.inr hc)) hr
        | reduced => exact absurd hc hm
        | hotp => exact absurd hc hh
        | _ => exact ⟨rfl, rfl⟩
    exact key
  · rintro s t i h (rfl | ⟨rfl, hk⟩)
    · exact code_of_reduced (results_of_mod h)
    · exact code_of_reduced (results_of_hotp hk h)

/-- The addresses of the MAC words (R101). -/
theorem mac_offset_range (i : Fin 5) : 0x20 ≤ (Reg.mac i).offset.toNat ∧ (Reg.mac i).offset.toNat ≤ 0x30 := by
  revert i; decide

/-- Settles O54: the writers by `ResultStep`, bit 31 by `dynTrunc_lt`. -/
theorem digestAndHotpWriters : Obligations.DigestAndHotpWriters := by
  refine ⟨fun s t h hr => ?_, ?_⟩
  · cases resultStep_of_step h with
    | kept h => exact ⟨.inl (congrArg Results.mac h), .inl (congrArg Results.hotpVal h)⟩
    | reset hr' => exact absurd hr' hr
    | storedHotpVal v hn hb h =>
      exact ⟨.inl (congrArg Results.mac h), .inr (.inr (.inr ⟨v, hn, hb, congrArg Results.hotpVal h⟩))⟩
    | storedMac i v hn hb h =>
      exact ⟨.inr (.inr (.inr ⟨_, v, hn, hb, mac_offset_range i⟩)), .inl (congrArg Results.hotpVal h)⟩
    | command i hc h =>
      generalize hq : results t = q at h
      cases h with
      | kept => exact ⟨.inl (congrArg Results.mac hq), .inl (congrArg Results.hotpVal hq)⟩
      | reset => exact absurd (.inr (.inr hc)) hr
      | digest d => exact ⟨.inr (.inl hc), .inl (congrArg Results.hotpVal hq)⟩
      | truncated => exact ⟨.inl (congrArg Results.mac hq), .inr (.inl hc)⟩
      | reduced => exact ⟨.inl (congrArg Results.mac hq), .inl (congrArg Results.hotpVal hq)⟩
      | hotp d => exact ⟨.inr (.inr (.inl hc)), .inr (.inr (.inl hc))⟩
  · rintro s t i h (rfl | ⟨rfl, hk⟩)
    · rw [show t.hotpVal = _ from congrArg Results.hotpVal (results_of_trunc h)]
      exact dynTrunc_lt _
    · rw [show t.hotpVal = _ from congrArg Results.hotpVal (results_of_hotp hk h)]
      exact dynTrunc_lt _

/-! ### The model's invariant -/

/-- A pending word is legal and not SRST (40_command_issue.md R350). -/
def PendingLegal (s : State) : Prop := s.busy = true → legal s.pend = true ∧ s.pend ≠ srstWord

theorem pendingLegal_of_writeEffect {s u : State} {a : BitVec 8} {v : Word} (hs : PendingLegal s)
    (h : WriteEffect s a v u) : PendingLegal u := by
  cases h with
  | reset => exact nofun
  | accepted _ hv _ hl => exact fun _ => ⟨hl, hv⟩
  | stored r _ _ hb =>
    intro hu
    have : (writeReg s r v).busy = s.busy := by cases r <;> rfl
    simp [this, hb] at hu
  | _ => exact hs

/-- Every step keeps a pending word legal: only an accepting write makes one pending. -/
theorem pendingLegal_of_step {s t : State} (hs : PendingLegal s) (h : step s = .next t) : PendingLegal t := by
  cases stepEffect_of_step h with
  | rst tx => rcases tx with _ | _ | _ <;> exact nofun
  | read => exact hs
  | write a v e u _ hu => exact (pendingLegal_of_writeEffect (s := startStep s) hs hu :)
  | idle => exact hs
  | completion => exact nofun

/-- Every step keeps the invariant. -/
theorem inv_of_step {s t : State} (hs : Inv s) (h : step s = .next t) : Inv t :=
  have hl := loadStep_of_step h
  have hc := codeSound_of_step ⟨hs.codeInRange, hs.bcdMatchesCode⟩ h
  { spec := specInv_of_step hs.spec h
    keyCanonical := hl.keyChange.wf hs.keyCanonical
    pendingIsLegal := pendingLegal_of_step hs.pendingIsLegal h
    padInsideQuantum := hl.padInsideQuantum hs.padInsideQuantum
    fullAtBoundary := hl.fullAtBoundary hs.fullAtBoundary
    codeInRange := hc.inRange
    bcdMatchesCode := hc.bcdMatches }

/-- Settles O23: a pending word is legal, so the step answers. -/
theorem invariantStatesStepOn : Obligations.InvariantStatesStepOn := by
  intro s hs
  obtain ⟨t, ht⟩ := step_answers fun hb => (hs.pendingIsLegal hb).1
  exact ⟨t, ht, inv_of_step hs ht⟩

/-- Settles O24: clause by clause, on the reset values. -/
theorem resetMeetsInvariant : Obligations.ResetMeetsInvariant := fun ts =>
  { spec := specInv_reset ts
    keyCanonical := rfl
    pendingIsLegal := nofun
    padInsideQuantum := nofun
    fullAtBoundary := nofun
    codeInRange := Nat.zero_le _
    bcdMatchesCode := Results.codeSound_reset.bcdMatches }

/-! ### The counter (10_state.md R107) -/

@[simp] theorem startStep_ctrLo (s : State) : (startStep s).ctrLo = s.ctrLo := by rfl
@[simp] theorem startStep_ctrHi (s : State) : (startStep s).ctrHi = s.ctrHi := by rfl

/-- What a step can do to the counter registers. -/
theorem counter_of_step {s t : State} (h : step s = .next t) :
    resetsNow s ∨ (t.ctrLo = s.ctrLo ∧ t.ctrHi = s.ctrHi) ∨
    (∃ v, nextTurn s = .host (.write 0x08 v) ∧ s.busy = false ∧ t.ctrLo = v ∧ t.ctrHi = s.ctrHi) ∨
    (∃ v, nextTurn s = .host (.write 0x0C v) ∧ s.busy = false ∧ t.ctrLo = s.ctrLo ∧ t.ctrHi = v) := by
  cases stepEffect_of_step h with
  | rst tx hn => exact .inl (.inl ⟨tx, hn⟩)
  | read => exact .inr (.inl ⟨rfl, rfl⟩)
  | idle => exact .inr (.inl ⟨rfl, rfl⟩)
  | completion i u hc hu =>
    by_cases hi : i = .srst
    · exact .inl (.inr (.inr (hi ▸ hc)))
    · obtain ⟨-, -, hlo, hhi, -, -⟩ := exec_keeps hi hu
      exact .inr (.inl ⟨hlo, hhi⟩)
  | write a v e u hn hu =>
    cases hu with
    | reset ha hv =>
      subst ha hv
      exact .inl (.inr (.inl hn))
    | stored r hr ha hb =>
      have hoff := offset_of_regAt hr
      subst hoff
      refine .inr ?_
      rcases writeReg_cases ha (startStep s) v with ⟨rfl, hw⟩ | ⟨rfl, hw⟩ | ⟨-, hw⟩ | ⟨i, -, hw⟩ <;> rw [hw]
      · exact .inr (.inl ⟨v, hn, hb, by simp⟩)
      · exact .inr (.inr ⟨v, hn, hb, by simp⟩)
      · exact .inl (by simp)
      · exact .inl (by simp)
    | _ => exact .inr (.inl (by simp))

/-- COUNTER as a number (R107). -/
theorem counter_toNat (s : State) : (counter s).toNat = s.ctrHi.toNat * 2 ^ 32 + s.ctrLo.toNat := by
  rw [counter, BitVec.toNat_append, ← Nat.shiftLeft_add_eq_or_of_lt s.ctrLo.isLt, Nat.shiftLeft_eq]

/-- Settles O52: by `counter_of_step`. -/
theorem onlyHostWritesCounter : Obligations.OnlyHostWritesCounter := by
  refine ⟨counter_toNat, fun s t h hr => ?_⟩
  rcases counter_of_step h with hr' | ⟨hlo, hhi⟩ | ⟨v, hn, hb, hlo, hhi⟩ | ⟨v, hn, hb, hlo, hhi⟩
  · exact absurd hr' hr
  · exact ⟨.inl hlo, .inl hhi⟩
  · exact ⟨.inr ⟨v, hn, hb, hlo⟩, .inl hhi⟩
  · exact ⟨.inl hlo, .inr ⟨v, hn, hb, hhi⟩⟩

end Sys2Proof.Machine

/-! PROOFS. What the host reads (10_state.md R101 to R114), the reset values, HMAC's frame, and that the hidden registers
are never seen (R116). -/

namespace Sys2Proof.Machine

/-! ### Reads -/

/-- A host read of a register answers its value and changes nothing else (20_memory.md R208, R209). -/
theorem step_read_reg (s : State) (r : Reg) :
    step (hostTurn s (.read r.offset)) = .next { s with resp := .readData (readReg s r) false } := by
  rw [step_read, busRead, regAt_offset]; rfl

/-- Settles O19: each address is its register's offset. -/
theorem readsReturnRegisters : Obligations.ReadsReturnRegisters := by
  intro s
  have hlen : BitVec.ofNat 32 s.keyLen.toNat = readReg s .keyLen := BitVec.ofNat_toNat 32 s.keyLen
  rw [hlen]
  refine ⟨step_read_reg s .status, step_read_reg s .ctrLo, step_read_reg s .ctrHi, step_read_reg s .hotpVal,
    step_read_reg s .code, step_read_reg s .codeBcd, step_read_reg s .keyLen, step_read_reg s (.mac 0),
    step_read_reg s (.mac 1), step_read_reg s (.mac 2), step_read_reg s (.mac 3), step_read_reg s (.mac 4),
    step_read_reg s .id, fun i hi => ?_⟩
  rw [← be32_eq_append]
  exact step_read_reg s (.keyw ⟨i, hi⟩)

/-! ### The STATUS word (10_state.md R103) -/

/-- STATUS has the bits of its fields, put side by side. -/
theorem statusWord_getLsbD (s : State) (k : Nat) :
    (statusWord s).getLsbD k =
      ((0 : BitVec 17) ++ s.b32pos ++ s.err.code ++ (0 : BitVec 1) ++ s.b32st.code ++ (0 : BitVec 1)
        ++ BitVec.ofBool s.ovr ++ BitVec.ofBool s.keyValid ++ BitVec.ofBool s.busy).getLsbD k := by rfl

theorem statusWord_flags (s : State) :
    (statusWord s).getLsbD 0 = s.busy ∧ (statusWord s).getLsbD 1 = s.keyValid ∧ (statusWord s).getLsbD 2 = s.ovr ∧
      (statusWord s).getLsbD 3 = false ∧ (statusWord s).getLsbD 7 = false := by
  simp only [statusWord_getLsbD, BitVec.getLsbD_append]
  simp

/-- Bits 31:15 are zero. -/
theorem statusWord_high (s : State) : (statusWord s).toNat / 2 ^ 15 = 0 := by
  refine Nat.div_eq_of_lt (Nat.lt_pow_two_of_testBit _ fun k hk => ?_)
  rw [BitVec.testBit_toNat, statusWord_getLsbD]
  simp (disch := omega) only [BitVec.getLsbD_append, if_neg]
  exact BitVec.getLsbD_zero

/-- The fields of more than one bit. -/
theorem statusWord_fields (s : State) :
    (statusWord s).extractLsb' 4 3 = s.b32st.code ∧ (statusWord s).extractLsb' 8 4 = s.err.code ∧
      (statusWord s).extractLsb' 12 3 = s.b32pos := by
  refine ⟨?_, ?_, ?_⟩
  all_goals
    refine BitVec.eq_of_getLsbD_eq fun k hk => ?_
    rw [BitVec.getLsbD_extractLsb', statusWord_getLsbD]
    simp only [BitVec.getLsbD_append]
    interval_cases k <;> simp

/-- Settles O20: field by field. -/
theorem statusFields : Obligations.StatusFields := by
  intro s
  obtain ⟨hbusy, hkey, hovr, h3, h7⟩ := statusWord_flags s
  obtain ⟨hst, herr, hpos⟩ := statusWord_fields s
  refine ⟨hbusy, hkey, hovr, h3, h7, statusWord_high s, ?_, ?_, hpos⟩
  · rw [hst]; cases s.b32st <;> rfl
  · rw [herr]; cases s.err <;> rfl

/-! ### Reset values and HMAC -/

/-- An empty buffer reads as zero words (R114). -/
theorem keyWord_of_empty {s : State} (h : s.key = []) (i : Nat) : keyWord s i = 0 := by
  have h0 : be32 0 0 0 0 = 0 := by decide
  simpa [keyWord, h] using h0

/-- Settles O12: register by register. -/
theorem resetValues : Obligations.ResetValues := by
  refine ⟨fun r => ?_, fun i => rfl, rfl, rfl, rfl⟩
  cases r
  case mac i => revert i; decide
  case keyw i => exact keyWord_of_empty rfl i
  all_goals rfl

theorem releaseSha_setMac (s : State) (d : Digest) :
    releaseSha (setMac s d) = { s with mac := d, sha := freeSha s.freeCount, freeCount := s.freeCount + 1 } := by rfl

/-- Settles O38: by `exec_hmac_key`. -/
theorem hmacCompletes : Obligations.HmacCompletes := by
  intro s hk
  have hd : keyedDigest s = (s.sha.hmacSequence (keyBlock s) s.ctrHi s.ctrLo).h := by rw [keyedDigest]
  rw [← hd]
  exact ⟨_, _, (exec_hmac_key hk).trans (congrArg _ (releaseSha_setMac s _))⟩

/-! ### The round processor forgets what it held (42_hmac_sha1.md R511) -/

/-- Equal round inputs give equal working words after any number of rounds, whatever H, phase and IH hold. -/
theorem ShaUnit.rounds_work_congr (n : Nat) {u v : ShaUnit} (hwork : u.work = v.work) (hw : u.w = v.w) (ht : u.t = v.t) :
    (ShaUnit.rounds n u).work = (ShaUnit.rounds n v).work := by
  induction n generalizing u v with
  | zero => exact hwork
  | succ n ih =>
    refine ih ?_ ?_ ?_
    · simp only [ShaUnit.round, hwork, hw, ht]
    · rw [round_w, round_w, hw, ht]
    · rw [round_t, round_t, ht]

/-- A compression's result depends on the unit only through H. -/
theorem ShaUnit.compress_h_congr {u v : ShaUnit} (h : u.h = v.h) (m : Block) : (u.compress m).h = (v.compress m).h := by
  have hwork : (ShaUnit.rounds 80 (u.load m)).work = (ShaUnit.rounds 80 (v.load m)).work :=
    rounds_work_congr 80 (by rw [load_work, load_work, h]) (by rw [load_w, load_w]) (by rw [load_t, load_t])
  rw [compress_h, compress_h, h, hwork]

theorem ShaUnit.phase0_h (u v : ShaUnit) (kw : Block) : (u.phase0 kw).h = (v.phase0 kw).h := by
  rw [phase0, phase0]
  exact compress_h_congr (by rw [startPhase_h, startPhase_h]) _

theorem ShaUnit.phase1_ih {u v : ShaUnit} (h : u.h = v.h) (hi lo : Word) :
    (u.phase1 hi lo).ih = (v.phase1 hi lo).ih := by
  rw [phase1, phase1, keepInner_ih, keepInner_ih]
  exact compress_h_congr (by rw [startPhase_h, startPhase_h, h]) _

theorem ShaUnit.phase2_h (u v : ShaUnit) (kw : Block) : (u.phase2 kw).h = (v.phase2 kw).h := by
  rw [phase2, phase2]
  exact compress_h_congr (by rw [startPhase_h, startPhase_h]) _

theorem ShaUnit.phase2_ih (u : ShaUnit) (kw : Block) : (u.phase2 kw).ih = u.ih := by
  rw [phase2, compress_ih, startPhase_ih]

theorem ShaUnit.phase3_h {u v : ShaUnit} (h : u.h = v.h) (hih : u.ih = v.ih) : u.phase3.h = v.phase3.h := by
  rw [phase3, phase3, hih]
  exact compress_h_congr (by rw [startPhase_h, startPhase_h, h]) _

/-- The four phases' result does not depend on what the unit held (R531). -/
theorem ShaUnit.hmacSequence_h (u v : ShaUnit) (kw : Block) (hi lo : Word) :
    (u.hmacSequence kw hi lo).h = (v.hmacSequence kw hi lo).h := by
  rw [hmacSequence, hmacSequence]
  refine phase3_h (phase2_h _ _ kw) ?_
  rw [phase2_ih, phase2_ih, phase1_ih (phase0_h u v kw)]

/-! ### Nothing sees the hidden registers (10_state.md R116) -/

@[simp] theorem eraseHidden_busy (s : State) : (eraseHidden s).busy = s.busy := by rfl
@[simp] theorem eraseHidden_keyValid (s : State) : (eraseHidden s).keyValid = s.keyValid := by rfl
@[simp] theorem eraseHidden_b32st (s : State) : (eraseHidden s).b32st = s.b32st := by rfl
@[simp] theorem eraseHidden_b32pos (s : State) : (eraseHidden s).b32pos = s.b32pos := by rfl
@[simp] theorem eraseHidden_acc (s : State) : (eraseHidden s).acc = s.acc := by rfl
@[simp] theorem eraseHidden_nbits (s : State) : (eraseHidden s).nbits = s.nbits := by rfl
@[simp] theorem eraseHidden_keyLen (s : State) : (eraseHidden s).keyLen = s.keyLen := by rfl
@[simp] theorem eraseHidden_pend (s : State) : (eraseHidden s).pend = s.pend := by rfl
@[simp] theorem eraseHidden_mac (s : State) : (eraseHidden s).mac = s.mac := by rfl
@[simp] theorem eraseHidden_hotpVal (s : State) : (eraseHidden s).hotpVal = s.hotpVal := by rfl
@[simp] theorem eraseHidden_eraseHidden (s : State) : eraseHidden (eraseHidden s) = eraseHidden s := by rfl

@[simp] theorem raiseError_eraseHidden (s : State) (c : ErrCode) :
    raiseError (eraseHidden s) c = eraseHidden (raiseError s c) := by rfl
@[simp] theorem setDecoder_eraseHidden (s : State) (st : DecoderState) :
    setDecoder (eraseHidden s) st = eraseHidden (setDecoder s st) := by rfl
@[simp] theorem advancePos_eraseHidden (s : State) : advancePos (eraseHidden s) = eraseHidden (advancePos s) := by rfl
@[simp] theorem setShifter_eraseHidden (s : State) (a : BitVec 12) (n : BitVec 3) :
    setShifter (eraseHidden s) a n = eraseHidden (setShifter s a n) := by rfl
@[simp] theorem restartDecoder_eraseHidden (s : State) (st : DecoderState) :
    restartDecoder (eraseHidden s) st = eraseHidden (restartDecoder s st) := by rfl
@[simp] theorem setKeyValid_eraseHidden (s : State) (v : Bool) :
    setKeyValid (eraseHidden s) v = eraseHidden (setKeyValid s v) := by rfl
@[simp] theorem storeKeyByte_eraseHidden (s : State) (b : Byte) :
    storeKeyByte (eraseHidden s) b = eraseHidden (storeKeyByte s b) := by rfl
@[simp] theorem clearKey_eraseHidden (s : State) : clearKey (eraseHidden s) = eraseHidden (clearKey s) := by rfl
@[simp] theorem clearErrors_eraseHidden (s : State) : clearErrors (eraseHidden s) = eraseHidden (clearErrors s) := by rfl
@[simp] theorem setOvr_eraseHidden (s : State) : setOvr (eraseHidden s) = eraseHidden (setOvr s) := by rfl
@[simp] theorem accept_eraseHidden (s : State) (v : Word) : accept (eraseHidden s) v = eraseHidden (accept s v) := by rfl
@[simp] theorem finish_eraseHidden (s : State) : finish (eraseHidden s) = eraseHidden (finish s) := by rfl
@[simp] theorem respond_eraseHidden (s : State) (r : BusResponse) :
    respond (eraseHidden s) r = eraseHidden (respond s r) := by rfl
@[simp] theorem setMac_eraseHidden (s : State) (d : Digest) : setMac (eraseHidden s) d = eraseHidden (setMac s d) := by rfl
@[simp] theorem setHotpVal_eraseHidden (s : State) (v : Word) :
    setHotpVal (eraseHidden s) v = eraseHidden (setHotpVal s v) := by rfl
@[simp] theorem writeCode_eraseHidden (s : State) (x : Word) :
    writeCode (eraseHidden s) x = eraseHidden (writeCode s x) := by rfl
@[simp] theorem applyReset_eraseHidden (s : State) : applyReset (eraseHidden s) = eraseHidden (applyReset s) := by rfl
@[simp] theorem startStep_eraseHidden (s : State) : startStep (eraseHidden s) = eraseHidden (startStep s) := by rfl
@[simp] theorem nextTurn_eraseHidden (s : State) : nextTurn (eraseHidden s) = nextTurn s := by rfl

/-- All that can be seen of a release is that a free value was used. -/
@[simp] theorem eraseHidden_releaseSha (s : State) : eraseHidden (releaseSha s) = bumpFree (eraseHidden s) := by rfl
@[simp] theorem eraseHidden_releaseModu (s : State) : eraseHidden (releaseModu s) = bumpFree (eraseHidden s) := by rfl

@[simp] theorem keyedDigest_eraseHidden (s : State) : keyedDigest (eraseHidden s) = keyedDigest s := by
  rw [keyedDigest, keyedDigest, ShaUnit.hmacSequence_h (eraseHidden s).sha s.sha]; rfl

@[simp] theorem append_eraseHidden (s : State) (b : Byte) :
    append (eraseHidden s) b = (append s b).map eraseHidden := by
  rw [append, append, storeKeyByte_eraseHidden, eraseHidden_keyLen]
  split <;> rfl

@[simp] theorem failChar_eraseHidden (s : State) (c : ErrCode) :
    failChar (eraseHidden s) c = eraseHidden (failChar s c) := by rfl

@[simp] theorem dataChar_eraseHidden (s : State) (v : BitVec 5) :
    dataChar (eraseHidden s) v = eraseHidden (dataChar s v) := by
  unfold dataChar
  rw [eraseHidden_acc, eraseHidden_nbits]
  dsimp only
  cases (shift s.acc s.nbits v).byte with
  | none => rfl
  | some b =>
    dsimp only
    rw [append_eraseHidden]
    cases append s b <;> rfl

@[simp] theorem firstPad_eraseHidden (s : State) : firstPad (eraseHidden s) = eraseHidden (firstPad s) := by
  rw [firstPad, firstPad, apply_ite eraseHidden]; rfl

@[simp] theorem nextPad_eraseHidden (s : State) : nextPad (eraseHidden s) = eraseHidden (nextPad s) := by
  rw [nextPad, nextPad, apply_ite eraseHidden]; rfl

@[simp] theorem decodeChar_eraseHidden (s : State) (c : Byte) :
    decodeChar (eraseHidden s) c = eraseHidden (decodeChar s c) := by
  unfold decodeChar
  cases lut c <;> simp [apply_ite eraseHidden]

@[simp] theorem sessionVerdict_eraseHidden (s : State) :
    sessionVerdict (eraseHidden s) = eraseHidden (sessionVerdict s) := by
  unfold sessionVerdict
  rw [eraseHidden_b32st]
  cases s.b32st
  case data => simp [apply_ite eraseHidden]
  all_goals rfl

@[simp] theorem endSession_eraseHidden (s : State) : endSession (eraseHidden s) = eraseHidden (endSession s) := by
  simp [endSession, apply_ite eraseHidden]

@[simp] theorem rawKeyByte_eraseHidden (s : State) (b : Byte) :
    rawKeyByte (eraseHidden s) b = eraseHidden (rawKeyByte s b) := by
  unfold rawKeyByte
  rw [append_eraseHidden]
  cases append s b <;> simp [apply_ite eraseHidden]

@[simp] theorem writeHotp_eraseHidden (s : State) (d : Digest) :
    writeHotp (eraseHidden s) d = eraseHidden (writeHotp s d) := by rfl

@[simp] theorem writeReg_eraseHidden (s : State) (r : Reg) (v : Word) :
    writeReg (eraseHidden s) r v = eraseHidden (writeReg s r v) := by
  cases r <;> rfl

@[simp] theorem readReg_eraseHidden (s : State) (r : Reg) : readReg (eraseHidden s) r = readReg s r := by
  cases r <;> rfl

@[simp] theorem busRead_eraseHidden (s : State) (a : BitVec 8) : busRead (eraseHidden s) a = busRead s a := by
  unfold busRead
  cases regAt a <;> simp

@[simp] theorem resetCycle_eraseHidden (s : State) (tx : Option BusTx) :
    resetCycle (eraseHidden s) tx = eraseHidden (resetCycle s tx) := by
  rcases tx with _ | _ | _ <;> rfl

/-- Two answers that agree in all that can be seen. -/
def SeenSame (a b : Result) : Prop := mapNext eraseHidden a = mapNext eraseHidden b

/-- What acts after erasing as it acts before erasing is seen the same. -/
theorem seenSame_next {s t : State} (h : t = eraseHidden s) : SeenSame (.next t) (.next s) := by
  rw [h]; rfl

/-- An operation that leaves the hidden registers alone keeps two answers seen the same. -/
theorem SeenSame.mapNext {f : State → State} (hf : ∀ s, f (eraseHidden s) = eraseHidden (f s)) {a b : Result}
    (h : SeenSame a b) : SeenSame (mapNext f a) (mapNext f b) := by
  have comm (r : Result) : Machine.mapNext eraseHidden (Machine.mapNext f r) =
      Machine.mapNext f (Machine.mapNext eraseHidden r) := by
    cases r with
    | next s => exact congrArg _ (hf s).symm
    | _ => rfl
  rw [SeenSame, comm, comm, h]

theorem exec_hmac_eraseHidden (s : State) : SeenSame (exec .hmac (eraseHidden s)) (exec .hmac s) := by
  cases hk : s.keyValid
  · rw [exec_hmac_noKey hk, exec_hmac_noKey (s := eraseHidden s) hk]
    exact seenSame_next (raiseError_eraseHidden s _)
  · rw [exec_hmac_key hk, exec_hmac_key (s := eraseHidden s) hk]
    simp [SeenSame]

theorem exec_hotp_eraseHidden (s : State) : SeenSame (exec .hotp (eraseHidden s)) (exec .hotp s) := by
  cases hk : s.keyValid
  · rw [exec_hotp_noKey hk, exec_hotp_noKey (s := eraseHidden s) hk]
    exact seenSame_next (raiseError_eraseHidden s _)
  · rw [exec_hotp_key hk, exec_hotp_key (s := eraseHidden s) hk]
    simp [SeenSame]

/-- No command shows the hidden registers. -/
theorem exec_eraseHidden (i : Instr) (s : State) : SeenSame (exec i (eraseHidden s)) (exec i s) := by
  cases i
  case hmac => exact exec_hmac_eraseHidden s
  case hotp => exact exec_hotp_eraseHidden s
  all_goals simp [SeenSame]

theorem issue_eraseHidden (s : State) (v : Word) : SeenSame (issue (eraseHidden s) v) (issue s v) := by
  unfold issue
  rw [eraseHidden_busy]
  split_ifs
  all_goals simp [SeenSame]

theorem busWrite_eraseHidden (s : State) (a : BitVec 8) (v : Word) :
    SeenSame (busWrite (eraseHidden s) a v) (busWrite s a v) := by
  unfold busWrite
  cases regAt a with
  | none => exact seenSame_next rfl
  | some r =>
    dsimp only
    cases r.access with
    | wo => exact issue_eraseHidden s v
    | ro => exact seenSame_next rfl
    | rw => exact seenSame_next (by simp [apply_ite eraseHidden])

theorem hostStep_eraseHidden (s : State) (tx : BusTx) : SeenSame (hostStep (eraseHidden s) tx) (hostStep s tx) := by
  cases tx with
  | read a => exact seenSame_next (by rw [busRead_eraseHidden, respond_eraseHidden])
  | write a v => exact (busWrite_eraseHidden s a v).mapNext fun s => respond_eraseHidden s _

theorem sequencerStep_eraseHidden (s : State) : SeenSame (sequencerStep (eraseHidden s)) (sequencerStep s) := by
  unfold sequencerStep complete
  rw [eraseHidden_busy, eraseHidden_pend]
  split
  · cases decode s.pend with
    | ok i => exact (exec_eraseHidden i s).mapNext finish_eraseHidden
    | error e => rfl
  · exact seenSame_next rfl

theorem step_eraseHidden (s : State) : SeenSame (step (eraseHidden s)) (step s) := by
  unfold step runTurn
  rw [startStep_eraseHidden, nextTurn_eraseHidden]
  cases nextTurn s with
  | host tx => exact hostStep_eraseHidden _ tx
  | sequencer => exact sequencerStep_eraseHidden _
  | rst tx => exact seenSame_next (resetCycle_eraseHidden _ tx)

/-- Settles O60: both states step as the one with the hidden registers erased. -/
theorem hiddenRegistersUnseen : Obligations.HiddenRegistersUnseen := by
  intro s t u v h
  have h' : SeenSame (step { s with sha := u, modu := v }) (step s) :=
    (step_eraseHidden { s with sha := u, modu := v }).symm.trans (step_eraseHidden s)
  rw [h] at h'
  obtain ⟨t', ht', he⟩ := mapNext_eq_next h'
  exact ⟨t', ht', he.symm⟩

end Sys2Proof.Machine

/-! PROOFS. The bus window (20_memory.md R204 to R211): what a host write answers by the kind of its address, that a
host step leaves the block's state alone while BUSY = 1, and the transaction in a reset cycle. -/

namespace Sys2Proof.Machine

/-! ### Host writes by the kind of the address -/

/-- A write that names no register gets the error response (R204). -/
theorem step_write_unmapped {a : BitVec 8} (h : regAt a = none) (s : State) (v : Word) :
    step (hostTurn s (.write a v)) = .next { s with resp := .written true } := by
  rw [step_write, busWriteErr, busWrite, h]; rfl

/-- A write to a read-only register is ignored (R205). -/
theorem step_write_readOnly {a : BitVec 8} {r : Reg} (hr : regAt a = some r) (ha : r.access = .ro) (s : State)
    (v : Word) : step (hostTurn s (.write a v)) = .next { s with resp := .written false } := by
  rw [step_write, busWriteErr, busWrite, hr]
  dsimp only
  rw [ha]; rfl

/-- A write to a read-write register goes to the register, or to OVR while BUSY = 1 (R206, R207). -/
theorem step_write_readWrite {a : BitVec 8} {r : Reg} (hr : regAt a = some r) (ha : r.access = .rw) (s : State)
    (v : Word) :
    step (hostTurn s (.write a v)) =
      .next (respond (if s.busy then setOvr (respond s .none) else writeReg (respond s .none) r v) (.written false)) := by
  rw [step_write, busWriteErr, busWrite, hr]
  dsimp only
  rw [ha]; rfl

/-- What a write stores does not depend on the bus response. -/
@[simp] theorem writeReg_respond (s : State) (x : BusResponse) (r : Reg) (v : Word) :
    writeReg (respond s x) r v = respond (writeReg s r v) x := by
  cases r <;> rfl

/-- While BUSY = 1 a write to a read-write register sets OVR only (R206). -/
theorem step_write_readWrite_busy {a : BitVec 8} {r : Reg} (hr : regAt a = some r) (ha : r.access = .rw) {s : State}
    (hb : s.busy = true) (v : Word) :
    step (hostTurn s (.write a v)) = .next { s with ovr := true, resp := .written false } := by
  rw [step_write_readWrite hr ha, if_pos hb]; rfl

/-- While BUSY = 0 a write to a read-write register stores the word there (R207). -/
theorem step_write_readWrite_idle {r : Reg} (ha : r.access = .rw) {s : State} (hb : s.busy = false) (v : Word) :
    step (hostTurn s (.write r.offset v)) = .next (respond (writeReg s r v) (.written false)) := by
  rw [step_write_readWrite (regAt_offset r) ha, hb, if_neg Bool.false_ne_true, writeReg_respond, respond_respond]

/-- While BUSY = 1 a word other than SRST written to CMD sets OVR only (40_command_issue.md R351). -/
theorem step_write_cmd_busy {s : State} (hb : s.busy = true) {v : Word} (hv : v ≠ srstWord) :
    step (hostTurn s (.write 0x00 v)) = .next { s with ovr := true, resp := .written false } := by
  rw [step_write_cmd, issue, respond_busy, if_pos hb, if_neg hv]; rfl

/-- Settles O15: such an address names no register. -/
theorem misalignedOrUnmapped : Obligations.MisalignedOrUnmapped := by
  intro s a v ha
  have hnone : regAt a = none := regAt_eq_none ha
  refine ⟨?_, step_write_unmapped hnone s v⟩
  rw [step_read, busRead, hnone]; rfl

/-- Settles O16: by the access column of R101. -/
theorem readOnlyWritesIgnored : Obligations.ReadOnlyWritesIgnored := by
  refine fun s a v => ⟨fun ha => ?_, step_read_reg s .cmd⟩
  obtain ⟨r, hr, hro⟩ := regAt_readOnly ha
  exact step_write_readOnly hr hro s v

/-- Settles O17: CMD by R351, the read-write registers by R206. -/
theorem busyWritesDropped : Obligations.BusyWritesDropped := by
  rintro s a v hb (⟨rfl, hv⟩ | ha)
  · exact step_write_cmd_busy hb hv
  · obtain ⟨r, hr, hrw⟩ := regAt_readWrite ha
    exact step_write_readWrite_busy hr hrw hb v

/-- Settles O18: each address is its register's offset. -/
theorem idleWritesStore : Obligations.IdleWritesStore := by
  intro s v hb
  have store (r : Reg) (ha : r.access = .rw) := step_write_readWrite_idle ha hb v
  exact ⟨store .ctrLo rfl, store .ctrHi rfl, store .hotpVal rfl, store (.mac 0) rfl, store (.mac 1) rfl,
    store (.mac 2) rfl, store (.mac 3) rfl, store (.mac 4) rfl⟩

/-! ### Host steps while BUSY = 1 -/

/-- While BUSY = 1 a host write other than SRST can change OVR only (R206, R223). -/
theorem WriteEffect.eq_of_busy {s u : State} {a : BitVec 8} {v : Word} (h : WriteEffect s a v u) (hb : s.busy = true)
    (hv : ¬(a = 0x00 ∧ v = srstWord)) : ∃ o, u = { s with ovr := o } := by
  cases h with
  | ignored => exact ⟨s.ovr, rfl⟩
  | dropped => exact ⟨true, rfl⟩
  | busyCommand => exact ⟨true, rfl⟩
  | reset ha hs => exact absurd ⟨ha, hs⟩ hv
  | stored r hr ha hi => simp [hb] at hi
  | illegal ha hi => simp [hb] at hi
  | accepted ha hs hi => simp [hb] at hi

/-- Settles O21: a read changes the response only, a write by `WriteEffect.eq_of_busy`. -/
theorem busyHostStepsKeepState : Obligations.BusyHostStepsKeepState := by
  intro s tx hb hne
  cases tx with
  | read a => exact ⟨s.ovr, _, step_read s a⟩
  | write a v =>
    obtain ⟨u, hu⟩ := busWrite_answers (respond s .none) a v
    have hsrst : ¬(a = 0x00 ∧ v = srstWord) := by rintro ⟨rfl, rfl⟩; exact hne rfl
    obtain ⟨o, rfl⟩ := (writeEffect_of_busWrite hu).eq_of_busy hb hsrst
    exact ⟨o, .written (busWriteErr a), by rw [step_write, hu]; rfl⟩

/-! ### A transaction in a reset cycle (R211) -/

/-- A cycle of rst resets the block, whatever the host presents in it (70_reset_and_hazards.md R901). -/
theorem blockState_resetCycle (s : State) (tx : Option BusTx) :
    blockState (resetCycle s tx) = blockState State.reset := by
  rcases tx with _ | _ | _ <;> rfl

/-- A cycle of rst is the reset cycle, with the transaction presented in it. -/
theorem step_rstTurn (s : State) (tx : Option BusTx) :
    step (rstTurn s tx) = .next (resetCycle (respond s .none) tx) := rfl

/-- Settles O14: by `blockState_resetCycle` and the response of each transaction. -/
theorem transactionInResetCycle : Obligations.TransactionInResetCycle := by
  refine fun s tx => ⟨_, step_rstTurn s (some tx), blockState_resetCycle _ _, ?_, ?_⟩
  · rintro a rfl; rfl
  · rintro a v rfl; rfl

end Sys2Proof.Machine

/-! PROOFS. The command encoding (30_encoding.md R300 to R305): a word is its three fields, a row covers a word by its
fields, so no two rows cover one word; the round trips, the illegal words, and the step of a placed command. -/

namespace Sys2Proof

open Laws.EncodeFields (op imm8)

/-! ### The fields of a word (R300) -/

theorem opField_toNat (w : Word) : (opField w).toNat = w.toNat % 256 := by
  simp [opField]

theorem imm8Field_toNat (w : Word) : (imm8Field w).toNat = w.toNat / 2 ^ 8 % 256 := by
  simp [imm8Field, Nat.shiftRight_eq_div_pow]

theorem zeroField_toNat (w : Word) : (zeroField w).toNat = w.toNat / 2 ^ 16 := by
  have := w.isLt
  simp [zeroField, Nat.shiftRight_eq_div_pow]
  omega

/-- OP, IMM8 and ZERO are the whole word. -/
theorem word_eq_iff_fields (v w : Word) :
    v = w ↔ opField v = opField w ∧ imm8Field v = imm8Field w ∧ zeroField v = zeroField w := by
  constructor
  · rintro rfl; exact ⟨rfl, rfl, rfl⟩
  · simp only [← BitVec.toNat_inj, opField_toNat, imm8Field_toNat, zeroField_toNat]
    omega

theorem opField_and (v w : Word) : opField (v &&& w) = opField v &&& opField w := BitVec.extractLsb'_and

theorem imm8Field_and (v w : Word) : imm8Field (v &&& w) = imm8Field v &&& imm8Field w := BitVec.extractLsb'_and

theorem zeroField_and (v w : Word) : zeroField (v &&& w) = zeroField v &&& zeroField w := BitVec.extractLsb'_and

/-! ### The rows by their fields (R303) -/

/-- The match and mask columns, field by field: a mask fixes OP and ZERO, and IMM8 as a whole or not at all. -/
theorem row_fields : ∀ r ∈ rows, opField r.mask = BitVec.allOnes 8 ∧ zeroField r.mask = BitVec.allOnes 16 ∧
    zeroField r.value = 0 ∧ imm8Field r.value = 0 ∧
    (imm8Field r.mask = 0 ∨ imm8Field r.mask = BitVec.allOnes 8) := by decide

/-- The rows that take an operand are those of B32CHAR and KEYBYTE. -/
theorem row_takes_operand_iff : ∀ r ∈ rows,
    (imm8Field r.mask = 0 ↔ opField r.value = 0x11 ∨ opField r.value = 0x19) := by decide

/-- A row covers the words with its OP, a clear ZERO and, when it takes no operand, a clear IMM8. -/
theorem covers_iff_fields {r : Row} (hr : r ∈ rows) (w : Word) :
    r.covers w = true ↔
      opField w = opField r.value ∧ zeroField w = 0 ∧ (imm8Field r.mask = 0 ∨ imm8Field w = 0) := by
  obtain ⟨hop, hzero, hvzero, hvimm, himm⟩ := row_fields r hr
  rw [Row.covers, beq_iff_eq, word_eq_iff_fields, opField_and, imm8Field_and, zeroField_and, hop, hzero, hvzero, hvimm,
    BitVec.and_allOnes, BitVec.and_allOnes]
  rcases himm with himm | himm <;> rw [himm]
  · simp
  · rw [BitVec.and_allOnes]
    simp [and_comm]

/-- The twelve OP values are distinct. -/
theorem row_eq_of_opField_eq {r₁ r₂ : Row} (h₁ : r₁ ∈ rows) (h₂ : r₂ ∈ rows)
    (h : opField r₁.value = opField r₂.value) : r₁ = r₂ :=
  List.inj_on_of_nodup_map (f := fun r : Row => opField r.value) (by decide) h₁ h₂ h

/-- At most one row covers a word: the word's OP names it. -/
theorem row_eq_of_covers {w : Word} {r₁ r₂ : Row} (h₁ : r₁ ∈ rows) (h₂ : r₂ ∈ rows) (hc₁ : r₁.covers w = true)
    (hc₂ : r₂.covers w = true) : r₁ = r₂ :=
  row_eq_of_opField_eq h₁ h₂ (((covers_iff_fields h₁ w).1 hc₁).1.symm.trans ((covers_iff_fields h₂ w).1 hc₂).1)

/-- Settles O3: the two rows are the same row. -/
theorem noTwoRowsMatchOneWord : Obligations.NoTwoRowsMatchOneWord :=
  fun _ _ _ h₁ h₂ hc₁ hc₂ => congrArg Row.mnemonic (row_eq_of_covers h₁ h₂ hc₁ hc₂)

/-- A word decodes to a command exactly when a row that covers it builds the command from IMM8. -/
theorem decode_eq_ok_iff (w : Word) (i : Instr) :
    decode w = .ok i ↔ ∃ r ∈ rows, r.covers w = true ∧ r.build (imm8Field w) = i := by
  unfold decode
  constructor
  · intro h
    split at h
    · next r hf => exact ⟨r, List.mem_of_find?_eq_some hf, by simpa using List.find?_some hf, Except.ok.inj h⟩
    · cases h
  · rintro ⟨r, hr, hc, rfl⟩
    split
    · next r' hf =>
      rw [row_eq_of_covers (List.mem_of_find?_eq_some hf) hr (by simpa using List.find?_some hf) hc]
    · next hf => exact absurd hc (List.find?_eq_none.1 hf r hr)

/-! ### The round trips (R300, R301, R303) -/

/-- The word of a command has the command's OP and operand, and a clear ZERO. -/
theorem encode_fields (i : Instr) :
    opField (encode i) = op i ∧ imm8Field (encode i) = imm8 i ∧ zeroField (encode i) = 0 := by
  have h : Laws.EncodeFields.Statement i :=
    match i with
    | .nop => Laws.EncodeFields.nop
    | .srst => Laws.EncodeFields.srst
    | .clrerr => Laws.EncodeFields.clrerr
    | .b32begin => Laws.EncodeFields.b32begin
    | .b32char c => Laws.EncodeFields.b32char c
    | .b32end => Laws.EncodeFields.b32end
    | .keyclr => Laws.EncodeFields.keyclr
    | .keybyte b => Laws.EncodeFields.keybyte b
    | .hmac => Laws.EncodeFields.hmac
    | .hotp => Laws.EncodeFields.hotp
    | .trunc => Laws.EncodeFields.trunc
    | .mod => Laws.EncodeFields.mod
  exact ⟨h.1, h.2.1, h.2.2.1⟩

/-- Every command has its row, which builds it from its operand. -/
theorem exists_row (i : Instr) :
    ∃ r ∈ rows, op i = opField r.value ∧ (imm8Field r.mask = 0 ∨ imm8 i = 0) ∧ r.build (imm8 i) = i := by
  cases i <;> simp [rows, op, imm8, opField, imm8Field]

/-- What a row builds has the row's OP, and the operand it was built from. -/
theorem build_fields {r : Row} (hr : r ∈ rows) {b : Byte} (hb : imm8Field r.mask = 0 ∨ b = 0) :
    op (r.build b) = opField r.value ∧ imm8 (r.build b) = b := by
  simp only [rows, List.mem_cons, List.not_mem_nil, or_false] at hr
  rcases hr with rfl | rfl | rfl | rfl | rfl | rfl | rfl | rfl | rfl | rfl | rfl | rfl <;>
    simp_all [op, imm8, opField, imm8Field]

/-- Settles O1: the command's row covers its word. -/
theorem encodeThenDecode : Obligations.EncodeThenDecode := by
  intro i
  obtain ⟨hop, himm, hzero⟩ := encode_fields i
  obtain ⟨r, hr, hrop, hrimm, hbuild⟩ := exists_row i
  refine (decode_eq_ok_iff _ _).2 ⟨r, hr, (covers_iff_fields hr _).2 ⟨?_, hzero, ?_⟩, ?_⟩
  · rw [hop, hrop]
  · rwa [himm]
  · rw [himm, hbuild]

/-- Settles O2: the two words agree in each field. -/
theorem decodeThenEncode : Obligations.DecodeThenEncode := by
  intro w i h
  obtain ⟨r, hr, hc, rfl⟩ := (decode_eq_ok_iff w i).1 h
  obtain ⟨hwop, hwzero, hwimm⟩ := (covers_iff_fields hr w).1 hc
  obtain ⟨hbop, hbimm⟩ := build_fields hr hwimm
  obtain ⟨hop, himm, hzero⟩ := encode_fields (r.build (imm8Field w))
  refine (word_eq_iff_fields _ _).2 ⟨?_, ?_, ?_⟩
  · rw [hop, hbop, hwop]
  · rw [himm, hbimm]
  · rw [hzero, hwzero]

/-- Settles O5: the words of the table by O1, their neighbours by evaluation. -/
theorem tableWordsDecode : Obligations.TableWordsDecode :=
  ⟨encodeThenDecode .nop, encodeThenDecode .srst, encodeThenDecode (.b32char 0x4D), encodeThenDecode (.keybyte 0xFF),
    encodeThenDecode .hotp, encodeThenDecode .mod, by decide, by decide, by decide⟩

/-! ### The illegal words (R305) -/

theorem legal_iff_covers (w : Word) : legal w = true ↔ ∃ r ∈ rows, r.covers w = true := List.any_eq_true

/-- A legal word has a listed OP, a clear ZERO and, but for B32CHAR and KEYBYTE, a clear IMM8. -/
theorem legal_iff_fields (w : Word) :
    legal w = true ↔ (∃ r ∈ rows, opField r.value = opField w) ∧ zeroField w = 0 ∧
      (opField w = 0x11 ∨ opField w = 0x19 ∨ imm8Field w = 0) := by
  rw [legal_iff_covers]
  constructor
  · rintro ⟨r, hr, hc⟩
    obtain ⟨hop, hzero, himm⟩ := (covers_iff_fields hr w).1 hc
    rw [row_takes_operand_iff r hr, ← hop, or_assoc] at himm
    exact ⟨⟨r, hr, hop.symm⟩, hzero, himm⟩
  · rintro ⟨⟨r, hr, hop⟩, hzero, himm⟩
    refine ⟨r, hr, (covers_iff_fields hr w).2 ⟨hop.symm, hzero, ?_⟩⟩
    rwa [row_takes_operand_iff r hr, hop, or_assoc]

/-- The OP column of the table. -/
theorem row_ops : rows.map (fun r => opField r.value) =
    [0x00, 0x01, 0x02, 0x10, 0x11, 0x12, 0x18, 0x19, 0x20, 0x21, 0x30, 0x31] := by decide

/-- The OP values of the table are those outside the ranges of R305. -/
theorem op_listed_iff (b : Byte) : (∃ r ∈ rows, opField r.value = b) ↔
    ¬((0x03 ≤ b.toNat ∧ b.toNat ≤ 0x0F) ∨ (0x13 ≤ b.toNat ∧ b.toNat ≤ 0x17) ∨ (0x1A ≤ b.toNat ∧ b.toNat ≤ 0x1F) ∨
      (0x22 ≤ b.toNat ∧ b.toNat ≤ 0x2F) ∨ 0x32 ≤ b.toNat) := by
  rw [← List.mem_map, row_ops]
  simp only [List.mem_cons, List.not_mem_nil, or_false, ← BitVec.toNat_inj, BitVec.reduceToNat]
  omega

/-- The list of R305 over the numbers of the fields. -/
theorem illegal_iff_listed (w : Word) :
    legal w = false ↔
      (let op := w.toNat % 256
       ((0x03 ≤ op ∧ op ≤ 0x0F) ∨ (0x13 ≤ op ∧ op ≤ 0x17) ∨ (0x1A ≤ op ∧ op ≤ 0x1F) ∨ (0x22 ≤ op ∧ op ≤ 0x2F)
          ∨ 0x32 ≤ op)
        ∨ w.toNat / 2 ^ 16 ≠ 0
        ∨ (op ≠ 0x11 ∧ op ≠ 0x19 ∧ w.toNat / 2 ^ 8 % 256 ≠ 0)) := by
  rw [← Bool.not_eq_true, legal_iff_fields, op_listed_iff]
  simp only [← BitVec.toNat_inj, opField_toNat, imm8Field_toNat, zeroField_toNat, BitVec.reduceToNat]
  tauto

end Sys2Proof

namespace Sys2Proof.Machine

/-- An illegal word written to CMD while BUSY = 0 raises ILLEGAL_CMD only (40_command_issue.md R352). -/
theorem step_write_cmd_illegal {s : State} (hb : s.busy = false) {v : Word} (hl : legal v = false) :
    step (hostTurn s (.write 0x00 v))
      = .next { s with err := if s.err = .none then .illegalCmd else s.err, resp := .written false } := by
  rw [step_write_cmd, issue, respond_busy, if_neg (by simp [hb]), if_pos hl]; rfl

/-- Settles O4: the list by `illegal_iff_listed`, the rows by `legal_iff_covers`, the write by
`step_write_cmd_illegal`. -/
theorem illegalWordsAsListed : Obligations.IllegalWordsAsListed := by
  refine fun w => ⟨illegal_iff_listed w, ?_, fun s hb hl => step_write_cmd_illegal hb hl⟩
  simp only [legal_iff_covers, Row.covers, beq_iff_eq]

/-! ### A placed command (log entry 10) -/

theorem withFetchWord_toNat (s : State) (w : Word) : s.withFetchWord 32 w.toNat = placeCommand s w := by
  rw [State.withFetchWord, tableWord_toNat]

/-- A word that decodes to another command than SRST is placed as pending, with the sequencer's turn next. -/
theorem placeCommand_pending (s : State) {w : Word} {i : Instr} (h : decode w = .ok i) (hi : i ≠ .srst) :
    placeCommand s w = sequencerTurn (accept s w) := by
  have hl : legal w = true := (legal_iff_decode w).2 ⟨i, h⟩
  have hw : w ≠ srstWord := by
    rintro rfl
    exact hi (Except.ok.inj (h.symm.trans decode_srstWord))
  rw [placeCommand, if_pos ⟨hl, hw⟩]; rfl

/-- SRST is placed as a host write to CMD while idle. -/
theorem placeCommand_srst (s : State) : placeCommand s srstWord = hostTurn (finish s) (.write 0x00 srstWord) := by
  rw [placeCommand, if_neg (by simp)]; rfl

/-- SRST written to CMD runs at its issue (44_control.md R705). -/
theorem issue_srstWord (s : State) : issue s srstWord = exec .srst s := by
  rcases issue_cases s srstWord with ⟨-, h⟩ | ⟨hne, -⟩ | ⟨hne, -⟩ | ⟨hne, -⟩
  · exact h
  all_goals exact absurd rfl hne

/-- Settles O7: a pending command completes in the sequencer's turn, SRST acts at its issue. -/
theorem placedCommandRuns : Obligations.PlacedCommandRuns := by
  refine fun s w i h => ⟨fun hi => ?_, ?_⟩
  · rw [withFetchWord_toNat, placeCommand_pending s h hi, step_sequencer_busy rfl, complete, respond_pend, accept_pend, h]
    rfl
  · rintro rfl
    obtain rfl : w = srstWord := decode_srst h
    rw [withFetchWord_toNat, placeCommand_srst, step_write_cmd, issue_srstWord]
    rfl

end Sys2Proof.Machine

/-! PROOFS. Issue and completion of commands (40_command_issue.md R350 to R358): the sequencer's turn, that a step takes
one turn off the script, the branches of a write to CMD, and that a dropped write leaves the pending command alone. -/

namespace Sys2Proof.Machine

/-! ### The sequencer's turn (R355) -/

/-- The sequencer's turn comes when it is the first of the script, and when the script is empty (log entry 5). -/
theorem nextTurn_sequencer {s : State} (h : s.script = [] ∨ ∃ ts, s.script = .sequencer :: ts) :
    nextTurn s = .sequencer := by
  rcases h with h | ⟨ts, h⟩ <;> rw [nextTurn, h] <;> rfl

/-- A step with the sequencer's turn next is a sequencer step. -/
theorem step_of_sequencer {s : State} (hn : nextTurn s = .sequencer) : step s = sequencerStep (startStep s) := by
  rw [step, hn]; rfl

/-- Settles O6: the sequencer's step by BUSY, the completion by what PEND decodes to. -/
theorem stepRunsPendingCommand : Obligations.StepRunsPendingCommand := by
  intro s hs
  rw [step_of_sequencer (nextTurn_sequencer hs), sequencerStep, startStep_busy]
  refine ⟨fun i hb hi => ?_, fun hb => ?_⟩
  · rw [if_pos hb, complete, startStep_pend, hi]; rfl
  · rw [if_neg (by simp [hb])]; rfl

/-- After the sequencer's turn BUSY = 0, whatever the command did. -/
theorem busy_after_sequencer {s t : State} (hn : nextTurn s = .sequencer) (h : step s = .next t) : t.busy = false := by
  cases stepEffect_of_step h with
  | idle _ hb => exact hb
  | completion => rfl
  | rst _ hn' => cases hn.symm.trans hn'
  | read _ _ _ hn' => cases hn.symm.trans hn'
  | write _ _ _ _ hn' => cases hn.symm.trans hn'

/-- Settles O10: a legal word decodes, so the step answers. -/
theorem everyPendingCommandCompletes : Obligations.EveryPendingCommandCompletes := by
  intro s _ hl
  obtain ⟨t, ht⟩ := step_answers (s := sequencerTurn s) fun _ => hl
  exact ⟨t, ht, busy_after_sequencer (nextTurn_sequencerTurn s) ht⟩

/-! ### A step takes one turn off the script (log entry 5) -/

theorem script_of_exec {i : Instr} {s t : State} (h : exec i s = .next t) : t.script = s.script := by
  by_cases hi : i = .srst
  · subst hi
    cases h; rfl
  · obtain ⟨-, -, -, -, hscript, -⟩ := exec_keeps hi h
    exact hscript

theorem WriteEffect.script_eq {s u : State} {a : BitVec 8} {v : Word} (h : WriteEffect s a v u) :
    u.script = s.script := by
  cases h with
  | stored r => cases r <;> rfl
  | _ => rfl

theorem script_of_step {s t : State} (h : step s = .next t) : t.script = s.script.tail := by
  cases stepEffect_of_step h with
  | rst tx => rcases tx with _ | _ | _ <;> rfl
  | read => rfl
  | write a v e u _ hu => exact hu.script_eq
  | idle => rfl
  | completion i u _ hu => exact script_of_exec hu

/-! ### The run ends idle (R358) -/

/-- A run begins with a step. -/
theorem run_succ {s t : State} (h : step s = .next t) (n : Nat) :
    Host.Core.run core (n + 1) s = Host.Core.run core n t := by
  have hstep : core.step s = .next t := h
  simp only [Host.Core.run, hstep]

/-- Settles O11, by induction on the script: each turn is one step, and the step of the empty script is the
sequencer's. -/
theorem runEndsIdle : Obligations.RunEndsIdle := by
  intro s hs
  induction hsc : s.script generalizing s with
  | nil =>
    obtain ⟨t, ht, -⟩ := invariantStatesStepOn s hs
    exact ⟨t, run_succ ht 0, busy_after_sequencer (nextTurn_sequencer (.inl hsc)) ht,
      by rw [script_of_step ht, hsc]; rfl⟩
  | cons turn ts ih =>
    obtain ⟨u, hu, hinv⟩ := invariantStatesStepOn s hs
    obtain ⟨t, ht, hidle⟩ := ih u hinv (by rw [script_of_step hu, hsc]; rfl)
    exact ⟨t, (run_succ hu _).trans ht, hidle⟩

/-! ### Issue (R350) -/

/-- SRST written to CMD resets the block, busy or not (44_control.md R705). -/
theorem step_write_cmd_srst (s : State) :
    step (hostTurn s (.write 0x00 srstWord)) = .next (respond (applyReset (respond s .none)) (.written false)) := by
  rw [step_write_cmd, issue_srstWord, exec_srst, mapNext_next]

/-- After SRST at its issue every register has its reset value (R902), and the bus error bit is 0. -/
theorem step_write_cmd_srst_blockState (s : State) :
    ∃ t, step (hostTurn s (.write 0x00 srstWord)) = .next t ∧ blockState t = blockState State.reset ∧
      t.resp = .written false :=
  ⟨_, step_write_cmd_srst s, rfl, rfl⟩

/-- A legal word other than SRST written to CMD while BUSY = 0 becomes pending. -/
theorem step_write_cmd_accepted {s : State} (hb : s.busy = false) {v : Word} (hl : legal v = true)
    (hv : v ≠ srstWord) :
    step (hostTurn s (.write 0x00 v)) = .next { s with pend := v, busy := true, resp := .written false } := by
  rw [step_write_cmd, issue, respond_busy, if_neg (by simp [hb]), if_neg (by simp [hl]), if_neg hv]; rfl

/-- Settles O8: one lemma per branch. -/
theorem issueBranches : Obligations.IssueBranches := fun s _ =>
  ⟨fun _ hv => hv ▸ step_write_cmd_srst_blockState s, fun hb hv => step_write_cmd_busy hb hv,
    fun hb hl => step_write_cmd_illegal hb hl, fun _ hv => hv ▸ step_write_cmd_srst_blockState s,
    fun hb hl hv => step_write_cmd_accepted hb hl hv⟩

/-! ### OVR does not steer a command (R351) -/

/-- STATUS.OVR <- o, and nothing else. -/
def withOvr (o : Bool) (s : State) : State := { s with ovr := o }

section
variable (o : Bool) (s : State)

@[simp] theorem withOvr_keyValid : (withOvr o s).keyValid = s.keyValid := by rfl
@[simp] theorem withOvr_b32st : (withOvr o s).b32st = s.b32st := by rfl
@[simp] theorem withOvr_acc : (withOvr o s).acc = s.acc := by rfl
@[simp] theorem withOvr_nbits : (withOvr o s).nbits = s.nbits := by rfl
@[simp] theorem withOvr_mac : (withOvr o s).mac = s.mac := by rfl
@[simp] theorem withOvr_hotpVal : (withOvr o s).hotpVal = s.hotpVal := by rfl
@[simp] theorem withOvr_pend : (withOvr o s).pend = s.pend := by rfl
@[simp] theorem withOvr_withOvr (p : Bool) : withOvr p (withOvr o s) = withOvr p s := by rfl
@[simp] theorem clearErrors_withOvr : clearErrors (withOvr o s) = clearErrors s := by rfl
@[simp] theorem applyReset_withOvr : applyReset (withOvr o s) = applyReset s := by rfl
@[simp] theorem raiseError_withOvr (c : ErrCode) : raiseError (withOvr o s) c = withOvr o (raiseError s c) := by rfl
@[simp] theorem failChar_withOvr (c : ErrCode) : failChar (withOvr o s) c = withOvr o (failChar s c) := by rfl
@[simp] theorem setKeyValid_withOvr (v : Bool) : setKeyValid (withOvr o s) v = withOvr o (setKeyValid s v) := by rfl
@[simp] theorem clearKey_withOvr : clearKey (withOvr o s) = withOvr o (clearKey s) := by rfl
@[simp] theorem restartDecoder_withOvr (st : DecoderState) :
    restartDecoder (withOvr o s) st = withOvr o (restartDecoder s st) := by rfl
@[simp] theorem setMac_withOvr (d : Digest) : setMac (withOvr o s) d = withOvr o (setMac s d) := by rfl
@[simp] theorem setHotpVal_withOvr (v : Word) : setHotpVal (withOvr o s) v = withOvr o (setHotpVal s v) := by rfl
@[simp] theorem writeCode_withOvr (x : Word) : writeCode (withOvr o s) x = withOvr o (writeCode s x) := by rfl
@[simp] theorem writeHotp_withOvr (d : Digest) : writeHotp (withOvr o s) d = withOvr o (writeHotp s d) := by rfl
@[simp] theorem releaseSha_withOvr : releaseSha (withOvr o s) = withOvr o (releaseSha s) := by rfl
@[simp] theorem releaseModu_withOvr : releaseModu (withOvr o s) = withOvr o (releaseModu s) := by rfl
@[simp] theorem keyedDigest_withOvr : keyedDigest (withOvr o s) = keyedDigest s := by rfl

@[simp] theorem append_withOvr (b : Byte) : append (withOvr o s) b = (append s b).map (withOvr o) := by
  rw [append, append, apply_ite (Option.map (withOvr o))]; rfl

@[simp] theorem dataChar_withOvr (v : BitVec 5) : dataChar (withOvr o s) v = withOvr o (dataChar s v) := by
  unfold dataChar
  rw [withOvr_acc, withOvr_nbits]
  dsimp only
  cases (shift s.acc s.nbits v).byte with
  | none => rfl
  | some b =>
    dsimp only
    rw [append_withOvr]
    cases append s b <;> rfl

@[simp] theorem firstPad_withOvr : firstPad (withOvr o s) = withOvr o (firstPad s) := by
  rw [firstPad, firstPad, apply_ite (withOvr o)]; rfl

@[simp] theorem nextPad_withOvr : nextPad (withOvr o s) = withOvr o (nextPad s) := by
  rw [nextPad, nextPad, apply_ite (withOvr o)]; rfl

@[simp] theorem decodeChar_withOvr (c : Byte) : decodeChar (withOvr o s) c = withOvr o (decodeChar s c) := by
  unfold decodeChar
  cases lut c <;> simp [apply_ite (withOvr o)]

@[simp] theorem sessionVerdict_withOvr : sessionVerdict (withOvr o s) = withOvr o (sessionVerdict s) := by
  unfold sessionVerdict
  rw [withOvr_b32st]
  cases s.b32st
  case data => rw [apply_ite (withOvr o)]; rfl
  all_goals rfl

@[simp] theorem endSession_withOvr : endSession (withOvr o s) = withOvr o (endSession s) := by
  simp [endSession, apply_ite (withOvr o)]

@[simp] theorem rawKeyByte_withOvr (b : Byte) : rawKeyByte (withOvr o s) b = withOvr o (rawKeyByte s b) := by
  unfold rawKeyByte
  rw [append_withOvr]
  cases append s b <;> simp [apply_ite (withOvr o)]

end

/-- CLRERR and SRST clear OVR, every other command leaves it alone: what else a command does is the same for both
values of OVR. -/
theorem exec_withOvr (o : Bool) (i : Instr) (s : State) :
    mapNext (withOvr false) (exec i (withOvr o s)) = mapNext (withOvr false) (exec i s) := by
  cases i
  case hmac =>
    cases hk : s.keyValid
    · rw [exec_hmac_noKey hk, exec_hmac_noKey (s := withOvr o s) hk]; simp
    · rw [exec_hmac_key hk, exec_hmac_key (s := withOvr o s) hk]; simp
  case hotp =>
    cases hk : s.keyValid
    · rw [exec_hotp_noKey hk, exec_hotp_noKey (s := withOvr o s) hk]; simp
    · rw [exec_hotp_key hk, exec_hotp_key (s := withOvr o s) hk]; simp
  all_goals simp

/-- A completion is the same for both values of OVR, up to OVR. -/
theorem complete_withOvr (o : Bool) (s : State) :
    mapNext (withOvr false) (complete (withOvr o s)) = mapNext (withOvr false) (complete s) := by
  have comm (r : Result) : mapNext (withOvr false) (mapNext finish r) = mapNext finish (mapNext (withOvr false) r) := by
    cases r <;> rfl
  rw [complete, complete, withOvr_pend]
  cases decode s.pend with
  | error e => rfl
  | ok i => dsimp only; rw [comm, comm, exec_withOvr]

/-- Settles O9: the dropped write sets OVR only, and the completion does not depend on it. -/
theorem droppedCommandDisturbsNothing : Obligations.DroppedCommandDisturbsNothing := by
  refine fun s v hb hv => ⟨step_write_cmd_busy hb hv, ?_⟩
  rw [step_sequencer_busy hb, step_sequencer_busy (s := { s with ovr := true, resp := .written false }) hb]
  exact complete_withOvr true (respond s .none)

end Sys2Proof.Machine

/-! PROOFS. Key loading (41_base32.md): the lookup table, the shifter, each key command in each decoder state, and what
the key commands leave unchanged. -/

namespace Sys2Proof.Machine

/-! ### The lookup table (R401) -/

/-- Settles O30: the two ranges value by value, the remaining bytes by the table's last branch. -/
theorem lookupTable : Obligations.LookupTable := by
  refine ⟨by decide, by decide, rfl, fun c hupper hdigit hpad => ?_⟩
  have hpad' : c.toNat ≠ 0x3D := fun h => hpad (BitVec.eq_of_toNat_eq h)
  rw [lut, if_neg hupper, if_neg hdigit, if_neg hpad']

/-! ### The shifter (R421) -/

/-- The five bits enter below the bits that wait. -/
theorem shift_input {a : BitVec 12} (h : a.toNat < 2 ^ 7) (v : BitVec 5) :
    ((a <<< 5) ||| v.setWidth 12).toNat = 32 * a.toNat + v.toNat := by
  have hv := v.isLt
  have hs : (a <<< 5).toNat = a.toNat <<< 5 := by
    rw [BitVec.toNat_shiftLeft, Nat.shiftLeft_eq, Nat.mod_eq_of_lt (by omega)]
  rw [BitVec.toNat_or, hs, BitVec.toNat_setWidth, Nat.mod_eq_of_lt (by omega), ← Nat.shiftLeft_add_eq_or_of_lt hv,
    Nat.shiftLeft_eq]
  omega

section
variable {a : BitVec 12} {n : BitVec 3} (h : a.toNat < 2 ^ n.toNat) (v : BitVec 5)
include h

theorem acc_lt_128 : a.toNat < 2 ^ 7 := h.trans_le (Nat.pow_le_pow_right (by decide) (by have := n.isLt; omega))

/-- Fewer than eight bits stay. -/
theorem shift_of_short (hn : n.toNat < 3) :
    shift a n v = ⟨BitVec.ofNat 12 (32 * a.toNat + v.toNat), BitVec.ofNat 3 (n.toNat + 5), none⟩ := by
  rw [shift, if_neg (by omega), ← shift_input (acc_lt_128 h) v, BitVec.ofNat_toNat, BitVec.setWidth_eq]

/-- Of eight bits or more the oldest eight leave. -/
theorem shift_of_full (hn : 3 ≤ n.toNat) :
    shift a n v = ⟨BitVec.ofNat 12 ((32 * a.toNat + v.toNat) % 2 ^ (n.toNat - 3)), BitVec.ofNat 3 (n.toNat - 3),
      some (BitVec.ofNat 8 ((32 * a.toNat + v.toNat) / 2 ^ (n.toNat - 3)))⟩ := by
  have hb (x : BitVec 12) (k : Nat) : x.extractLsb' k 8 = BitVec.ofNat 8 (x.toNat / 2 ^ k) := by
    rw [BitVec.extractLsb', Nat.shiftRight_eq_div_pow]
  rw [shift, if_pos (by omega), hb, shift_input (acc_lt_128 h) v, show n.toNat + 5 - 8 = n.toNat - 3 by omega]

/-- The waiting bits and the new ones are at most `n + 5`. -/
theorem shift_input_lt : 32 * a.toNat + v.toNat < 2 ^ (n.toNat + 5) := by
  have hv := v.isLt
  rw [pow_add]
  omega

end

/-- Settles O31: by `shift_of_full` and `shift_of_short`, whose numbers fit their registers. -/
theorem shifterArithmetic : Obligations.ShifterArithmetic := by
  intro a n v h
  have hn := n.isLt
  have hv := v.isLt
  have ha := acc_lt_128 h
  refine ⟨fun h8 => ?_, fun h8 => ?_⟩
  · rw [shift_of_full h v (by omega)]
    have hb : (32 * a.toNat + v.toNat) / 2 ^ (n.toNat - 3) < 2 ^ 8 := by
      rw [Nat.div_lt_iff_lt_mul (by positivity), ← pow_add, show 8 + (n.toNat - 3) = n.toNat + 5 by omega]
      exact shift_input_lt h v
    have hr := Nat.mod_le (32 * a.toNat + v.toNat) (2 ^ (n.toNat - 3))
    refine ⟨_, rfl, ?_, ?_, ?_⟩ <;> rw [BitVec.toNat_ofNat, Nat.mod_eq_of_lt (by omega)]
  · rw [shift_of_short h v (by omega)]
    refine ⟨rfl, ?_, ?_⟩ <;> rw [BitVec.toNat_ofNat, Nat.mod_eq_of_lt (by omega)]

/-! ### The raw key commands (R410, R440, R441) -/

/-- Settles O27: the empty buffer reads 0 at every index. -/
theorem keyStartCommands : Obligations.KeyStartCommands := fun _ => ⟨[], Memory.read_nil, rfl, rfl⟩

/-- KEYBYTE without a valid key, or with a session open. -/
theorem rawKeyByte_seq {s : State} (h : s.b32st ≠ .idle ∨ s.keyValid = false) (b : Byte) :
    rawKeyByte s b = raiseError s .seq := if_pos h

theorem append_of_room {s : State} (h : s.keyLen.toNat < 64) (b : Byte) : append s b = some (storeKeyByte s b) :=
  if_pos h

theorem append_of_full {s : State} (h : 64 ≤ s.keyLen.toNat) (b : Byte) : append s b = none :=
  if_neg (Nat.not_lt.2 h)

/-- KEYBYTE on a valid key that is not full. -/
theorem rawKeyByte_of_room {s : State} (hi : s.b32st = .idle) (hk : s.keyValid = true) (hl : s.keyLen.toNat < 64)
    (b : Byte) : rawKeyByte s b = storeKeyByte s b := by
  simp [rawKeyByte, hi, hk, append_of_room hl]

/-- KEYBYTE on a full key. -/
theorem rawKeyByte_of_full {s : State} (hi : s.b32st = .idle) (hk : s.keyValid = true) (hl : 64 ≤ s.keyLen.toNat)
    (b : Byte) : rawKeyByte s b = setKeyValid (raiseError s .keyOvf) false := by
  simp [rawKeyByte, hi, hk, append_of_full hl]

/-- Settles O28: by `rawKeyByte_of_room` and the laws of the buffer. -/
theorem keybyteAppends : Obligations.KeybyteAppends := by
  intro s b hi hk hl hw
  refine ⟨(storeKeyByte s b).key, s.keyLen + 1, ?_, keyLen_succ hl, storeKeyByte_read hw b,
    fun i => storeKeyByte_read_other s b, Memory.wf_write hl hw⟩
  rw [exec_keybyte, rawKeyByte_of_room hi hk hl]
  rfl

/-- Settles O29: by `rawKeyByte_seq` and `rawKeyByte_of_full`. -/
theorem keybyteErrors : Obligations.KeybyteErrors := fun _ b =>
  ⟨fun h => congrArg Host.Outcome.next (rawKeyByte_seq h b),
    fun hi hk hl => congrArg Host.Outcome.next (rawKeyByte_of_full hi hk hl b)⟩

/-! ### B32CHAR, case by case (R420) -/

section
variable {s : State} {c : Byte}

theorem decodeChar_idle (hs : s.b32st = .idle) : decodeChar s c = raiseError s .seq := if_pos hs

theorem decodeChar_error (hs : s.b32st = .error) : decodeChar s c = s := by simp [decodeChar, hs]

theorem decodeChar_invalid (hs : s.b32st = .data ∨ s.b32st = .pad ∨ s.b32st = .full) (hc : lut c = .invalid) :
    decodeChar s c = failChar s .b32Char := by
  rcases hs with hs | hs | hs <;> simp [decodeChar, hs, hc]

theorem decodeChar_data {v : BitVec 5} (hs : s.b32st = .data) (hc : lut c = .value v) :
    decodeChar s c = dataChar s v := by simp [decodeChar, hs, hc]

theorem decodeChar_data_afterPad {v : BitVec 5} (hs : s.b32st = .pad ∨ s.b32st = .full) (hc : lut c = .value v) :
    decodeChar s c = failChar s .b32Pad := by
  rcases hs with hs | hs <;> simp [decodeChar, hs, hc]

/-- '=' at a legal position before the quantum's last. -/
theorem decodeChar_pad_opens (hs : s.b32st = .data) (hc : lut c = .pad)
    (hp : s.b32pos = 2 ∨ s.b32pos = 4 ∨ s.b32pos = 5) : decodeChar s c = setDecoder (advancePos s) .pad := by
  rcases hp with hp | hp | hp <;> simp [decodeChar, firstPad, padLegal, hs, hc, hp]

/-- '=' at the quantum's last position. -/
theorem decodeChar_pad_completes (hs : s.b32st = .data ∨ s.b32st = .pad) (hc : lut c = .pad) (hp : s.b32pos = 7) :
    decodeChar s c = setDecoder (advancePos s) .full := by
  rcases hs with hs | hs <;> simp [decodeChar, firstPad, nextPad, padLegal, hs, hc, hp]

/-- '=' at an illegal position. -/
theorem decodeChar_pad_illegal (hs : s.b32st = .data) (hc : lut c = .pad)
    (hp : s.b32pos = 0 ∨ s.b32pos = 1 ∨ s.b32pos = 3 ∨ s.b32pos = 6) : decodeChar s c = failChar s .b32Pad := by
  rcases hp with hp | hp | hp | hp <;> simp [decodeChar, firstPad, padLegal, hs, hc, hp]

/-- '=' inside the padding. -/
theorem decodeChar_pad_goesOn (hs : s.b32st = .pad) (hc : lut c = .pad) (hp : s.b32pos ≠ 7) :
    decodeChar s c = advancePos s := by
  have hn : nextPad s = advancePos s := if_neg hp
  simp [decodeChar, hs, hc, hn]

/-- '=' after a complete padded quantum. -/
theorem decodeChar_pad_afterFull (hs : s.b32st = .full) (hc : lut c = .pad) : decodeChar s c = failChar s .b32Pad := by
  simp [decodeChar, hs, hc]

end

/-- Settles O33: one equation of `decodeChar` per clause. -/
theorem b32charPaddingAndErrors : Obligations.B32charPaddingAndErrors := by
  intro s c
  refine ⟨fun hs => ?_, fun hs => ?_, fun hs hc => ?_, fun hs hc hp => ?_, fun hs hc hp => ?_, fun hs hc hp => ?_,
    fun hs hc hp => ?_, fun v hs hc => ?_, fun hs hc => ?_⟩ <;> rw [exec_b32char]
  · rw [decodeChar_idle hs]; rfl
  · rw [decodeChar_error hs]
  · rw [decodeChar_invalid hs hc]; rfl
  · rw [decodeChar_pad_opens hs hc hp]; rfl
  · rw [decodeChar_pad_completes hs hc hp, advancePos, hp]; rfl
  · rw [decodeChar_pad_illegal hs hc hp]; rfl
  · rw [decodeChar_pad_goesOn hs hc hp]; rfl
  · rw [decodeChar_data_afterPad hs hc]; rfl
  · rw [decodeChar_pad_afterFull hs hc]; rfl

/-! ### A data character in state DATA (R420 to R422) -/

section
variable {s : State} (ha : s.acc.toNat < 2 ^ s.nbits.toNat) (v : BitVec 5)
include ha

/-- It completes no byte. -/
theorem dataChar_of_short (hn : s.nbits.toNat < 3) :
    dataChar s v = advancePos (setShifter s (BitVec.ofNat 12 (32 * s.acc.toNat + v.toNat))
      (BitVec.ofNat 3 (s.nbits.toNat + 5))) := by
  rw [dataChar, shift_of_short ha v hn]

/-- It completes a byte for which the buffer has room. -/
theorem dataChar_of_room (hn : 3 ≤ s.nbits.toNat) (hl : s.keyLen.toNat < 64) :
    dataChar s v = advancePos (setShifter
      (storeKeyByte s (BitVec.ofNat 8 ((32 * s.acc.toNat + v.toNat) / 2 ^ (s.nbits.toNat - 3))))
      (BitVec.ofNat 12 ((32 * s.acc.toNat + v.toNat) % 2 ^ (s.nbits.toNat - 3)))
      (BitVec.ofNat 3 (s.nbits.toNat - 3))) := by
  simp only [dataChar, shift_of_full ha v hn, append_of_room hl]

/-- It completes a byte for which the buffer has no room. -/
theorem dataChar_of_overflow (hn : 3 ≤ s.nbits.toNat) (hl : 64 ≤ s.keyLen.toNat) :
    dataChar s v = failChar s .keyOvf := by
  simp only [dataChar, shift_of_full ha v hn, append_of_full hl]

end

/-- Settles O32: one equation of `dataChar` per clause. -/
theorem b32charData : Obligations.B32charData := by
  intro s c v hs hc ha
  rw [exec_b32char, decodeChar_data hs hc]
  refine ⟨fun hn => ?_, fun hn hl hw => ?_, fun hn hl => ?_⟩
  · rw [dataChar_of_short ha v hn]; rfl
  · rw [dataChar_of_room ha v hn hl]
    exact ⟨_, rfl, storeKeyByte_read hw _, fun i => storeKeyByte_read_other s _⟩
  · rw [dataChar_of_overflow ha v hn hl]; rfl

/-! ### Frames (R420, R430, R441, D26) -/

/-- What a failing character does: the session fails with the first error kept. -/
theorem failChar_frame (s : State) {e : ErrCode} (he : e ≠ .none) :
    failChar s e = { s with b32st := .error, err := (failChar s e).err } ∧ (failChar s e).err ≠ .none := by
  refine ⟨rfl, ?_⟩
  change (if s.err = .none then e else s.err) ≠ .none
  split
  · exact he
  · assumption

/-- Settles O34: every case of a character that ends in ERROR is a `failChar`. -/
theorem failingCharacterFrame : Obligations.FailingCharacterFrame := by
  intro s t c hs h ht
  obtain rfl : decodeChar s c = t := Host.Outcome.next.inj h
  rcases decodeChar_cases s c with ⟨hi, h⟩ | ⟨he, -⟩ | ⟨-, -, -, h⟩ | ⟨v, hd, -, h⟩ | ⟨-, -, -, h⟩ | ⟨-, -, -, h⟩ |
    ⟨-, -, -, h⟩ | ⟨hp, -, -, h⟩ | ⟨-, -, h⟩ | ⟨-, -, h⟩
  case inr.inl => exact absurd he hs
  case inr.inr.inr.inl =>
    rcases dataChar_cases s v with ⟨-, h'⟩ | ⟨b, -, -, h'⟩ | ⟨b, -, -, h'⟩ <;> rw [h, h'] at ht ⊢
    · simp [hd] at ht
    · exact failChar_frame s (by simp)
    · simp [hd] at ht
  all_goals rw [h] at ht ⊢
  · simp [hi] at ht
  · exact failChar_frame s (by simp)
  · rw [setDecoder_b32st] at ht
    split at ht <;> cases ht
  · exact failChar_frame s (by simp)
  · simp at ht
  · simp [hp] at ht
  · exact failChar_frame s (by simp)
  · exact failChar_frame s (by simp)

/-! ### B32END (R430) -/

section
variable {s : State}

theorem endSession_idle (hs : s.b32st = .idle) : endSession s = raiseError s .seq := if_pos hs

theorem endSession_error (hs : s.b32st = .error) : endSession s = restartDecoder s .idle := by
  simp [endSession, sessionVerdict, hs]

/-- At the end of a quantum the key is valid. -/
theorem endSession_atBoundary (hs : s.b32st = .full ∨ s.b32st = .data ∧ s.b32pos = 0) :
    endSession s = restartDecoder (setKeyValid s true) .idle := by
  rcases hs with hs | ⟨hs, hp⟩
  · simp [endSession, sessionVerdict, hs]
  · simp [endSession, sessionVerdict, hs, hp]

/-- Inside a quantum the length is wrong. -/
theorem endSession_insideQuantum (hs : s.b32st = .pad ∨ s.b32st = .data ∧ s.b32pos ≠ 0) :
    endSession s = restartDecoder (raiseError s .b32Len) .idle := by
  rcases hs with hs | ⟨hs, hp⟩
  · simp [endSession, sessionVerdict, hs]
  · have hv : sessionVerdict s = raiseError s .b32Len := by rw [sessionVerdict, hs]; exact if_neg hp
    rw [endSession, if_neg (by simp [hs]), hv]

end

/-- Settles O35: one equation of `endSession` per clause. -/
theorem b32endCloses : Obligations.B32endCloses := by
  refine fun s => ⟨fun hs => ?_, fun hs => ?_, fun hs => ?_, fun hs => ?_⟩ <;> rw [exec_b32end]
  · rw [endSession_idle hs]; rfl
  · rw [endSession_error hs]; rfl
  · rw [endSession_atBoundary hs]; rfl
  · rw [endSession_insideQuantum hs]; rfl

/-! ### What the key commands leave alone (R420, R422, R430, R441) -/

/-- The key buffer is kept, or one byte is written at index KEY_LEN and KEY_LEN raised (R422). -/
inductive AppendsAtMost (s t : State) : Prop
  | kept (hl : t.keyLen = s.keyLen) (hk : t.key = s.key)
  | appended (b : Byte) (hl : t.keyLen = s.keyLen + 1) (hk : t.key = s.key.write s.keyLen.toNat b)

theorem dataChar_appendsAtMost (s : State) (v : BitVec 5) : AppendsAtMost s (dataChar s v) := by
  rcases dataChar_cases s v with ⟨-, h⟩ | ⟨b, -, -, h⟩ | ⟨b, -, -, h⟩ <;> rw [h]
  · exact .kept rfl rfl
  · exact .kept rfl rfl
  · exact .appended b rfl rfl

theorem decodeChar_appendsAtMost (s : State) (c : Byte) : AppendsAtMost s (decodeChar s c) := by
  rcases decodeChar_cases s c with ⟨-, h⟩ | ⟨-, h⟩ | ⟨-, -, -, h⟩ | ⟨v, -, -, h⟩ | ⟨-, -, -, h⟩ | ⟨-, -, -, h⟩ |
    ⟨-, -, -, h⟩ | ⟨-, -, -, h⟩ | ⟨-, -, h⟩ | ⟨-, -, h⟩ <;> rw [h]
  case inr.inr.inr.inl => exact dataChar_appendsAtMost s v
  all_goals exact .kept rfl rfl

theorem rawKeyByte_appendsAtMost (s : State) (b : Byte) : AppendsAtMost s (rawKeyByte s b) := by
  rcases rawKeyByte_cases s b with ⟨-, h⟩ | ⟨-, -, -, h⟩ | ⟨-, -, -, h⟩ <;> rw [h]
  · exact .kept rfl rfl
  · exact .kept rfl rfl
  · exact .appended b rfl rfl

theorem AppendsAtMost.read {s t : State} (h : AppendsAtMost s t) :
    (t.keyLen = s.keyLen ∧ ∀ j, t.key.read j = s.key.read j) ∨
    (t.keyLen = s.keyLen + 1 ∧ ∀ j, j ≠ s.keyLen.toNat → t.key.read j = s.key.read j) := by
  cases h with
  | kept hl hk => exact .inl ⟨hl, fun _ => by rw [hk]⟩
  | appended b hl hk => exact .inr ⟨hl, fun j hj => by rw [hk, Memory.read_write_other _ _ _ _ hj]⟩

/-- A character does not touch KEY_VALID (R420). -/
theorem decodeChar_keyValid (s : State) (c : Byte) : (decodeChar s c).keyValid = s.keyValid := by
  rw [decodeChar_frame]

/-- B32END writes KEY_VALID, the decoder's registers and ERR (R430). -/
theorem endSession_frame (s : State) :
    endSession s = { s with
      keyValid := (endSession s).keyValid, b32st := (endSession s).b32st, b32pos := (endSession s).b32pos,
      err := (endSession s).err, acc := (endSession s).acc, nbits := (endSession s).nbits } := by
  rcases endSession_cases s with ⟨-, h⟩ | ⟨-, h⟩ | ⟨-, h⟩ | ⟨-, h⟩ <;> rw [h] <;> rfl

/-- B32END does not touch the key (R430). -/
theorem endSession_key (s : State) : (endSession s).key = s.key ∧ (endSession s).keyLen = s.keyLen := by
  rw [endSession_frame]; exact ⟨rfl, rfl⟩

/-- KEYBYTE writes KEY_VALID, ERR and the key (R441). -/
theorem rawKeyByte_frame (s : State) (b : Byte) :
    rawKeyByte s b = { s with
      keyValid := (rawKeyByte s b).keyValid, err := (rawKeyByte s b).err, key := (rawKeyByte s b).key,
      keyLen := (rawKeyByte s b).keyLen } := by
  rcases rawKeyByte_cases s b with ⟨-, h⟩ | ⟨-, -, -, h⟩ | ⟨-, -, -, h⟩ <;> rw [h] <;> rfl

/-- KEYBYTE does not touch the decoder (R441). -/
theorem rawKeyByte_decoder (s : State) (b : Byte) :
    (rawKeyByte s b).b32st = s.b32st ∧ (rawKeyByte s b).b32pos = s.b32pos ∧ (rawKeyByte s b).acc = s.acc ∧
      (rawKeyByte s b).nbits = s.nbits := by
  rw [rawKeyByte_frame]; exact ⟨rfl, rfl, rfl, rfl⟩

/-- Settles O36: one frame per command, the buffer by `AppendsAtMost`. -/
theorem keyLoadingFrame : Obligations.KeyLoadingFrame := by
  intro i s t h
  refine ⟨?_, ?_, ?_, ?_, ?_⟩
  · rintro (rfl | rfl | rfl | ⟨c, rfl⟩ | ⟨b, rfl⟩) <;> obtain rfl := Host.Outcome.next.inj h
    · rfl
    · rw [(endSession_key s).1, (endSession_key s).2]; exact endSession_frame s
    · rfl
    · rw [decodeChar_keyValid]; exact decodeChar_frame s c
    · obtain ⟨hst, hpos, hacc, hnbits⟩ := rawKeyByte_decoder s b
      rw [hst, hpos, hacc, hnbits]; exact rawKeyByte_frame s b
  · rintro rfl
    obtain rfl := Host.Outcome.next.inj h
    exact endSession_key s
  · rintro (⟨c, rfl⟩ | ⟨b, rfl⟩) <;> obtain rfl := Host.Outcome.next.inj h
    · exact (decodeChar_appendsAtMost s c).read
    · exact (rawKeyByte_appendsAtMost s b).read
  · rintro ⟨b, rfl⟩
    obtain rfl := Host.Outcome.next.inj h
    exact rawKeyByte_decoder s b
  · rintro ⟨c, rfl⟩
    obtain rfl := Host.Outcome.next.inj h
    exact decodeChar_keyValid s c

end Sys2Proof.Machine

/-! PROOFS. A decode session decodes (41_base32.md R403): bits and the bytes they fill, which strings can still become
valid, the invariant of a session after each character, and its verdict. -/

namespace Sys2Proof.Machine

/-! ### The number a bit string stands for (R400) -/

theorem bitsValue_concat (a : List Bool) (b : Bool) : bitsValue (a ++ [b]) = 2 * bitsValue a + b.toNat := by
  simp [bitsValue]

theorem bitsValue_append (a b : List Bool) : bitsValue (a ++ b) = bitsValue a * 2 ^ b.length + bitsValue b := by
  induction b using List.reverseRecOn with
  | nil => simp [bitsValue]
  | append_singleton b x ih =>
    rw [← List.append_assoc, bitsValue_concat, bitsValue_concat, ih, List.length_append,
      List.length_singleton, pow_succ]
    ring

theorem bitsValue_lt (a : List Bool) : bitsValue a < 2 ^ a.length := by
  induction a using List.reverseRecOn with
  | nil => simp [bitsValue]
  | append_singleton a x ih =>
    have hx := Bool.toNat_lt x
    rw [bitsValue_concat, List.length_append, List.length_singleton, pow_succ]
    omega

/-- A bit string cut at `k`. -/
theorem bitsValue_split (a : List Bool) (k : Nat) :
    bitsValue a = bitsValue (a.take k) * 2 ^ (a.length - k) + bitsValue (a.drop k) ∧
      bitsValue (a.drop k) < 2 ^ (a.length - k) := by
  have hlt := bitsValue_lt (a.drop k)
  have happ := bitsValue_append (a.take k) (a.drop k)
  rw [List.take_append_drop, List.length_drop] at happ
  rw [List.length_drop] at hlt
  exact ⟨happ, hlt⟩

/-- The first `k` bits are the quotient. -/
theorem bitsValue_take (a : List Bool) (k : Nat) : bitsValue (a.take k) = bitsValue a / 2 ^ (a.length - k) := by
  obtain ⟨heq, hlt⟩ := bitsValue_split a k
  rw [heq, Nat.add_comm, Nat.add_mul_div_right _ _ (by positivity), Nat.div_eq_of_lt hlt, Nat.zero_add]

/-- The bits after them are the remainder. -/
theorem bitsValue_drop (a : List Bool) (k : Nat) : bitsValue (a.drop k) = bitsValue a % 2 ^ (a.length - k) := by
  obtain ⟨heq, hlt⟩ := bitsValue_split a k
  rw [heq, Nat.mul_add_mod_self_right, Nat.mod_eq_of_lt hlt]

theorem charBits_length {c : Byte} {v : BitVec 5} (hc : lut c = .value v) : (charBits c).length = 5 := by
  simp [charBits, hc]

theorem bitsValue_charBits {c : Byte} {v : BitVec 5} (hc : lut c = .value v) : bitsValue (charBits c) = v.toNat := by
  have hv : ∀ v : BitVec 5,
      bitsValue [v.getLsbD 4, v.getLsbD 3, v.getLsbD 2, v.getLsbD 1, v.getLsbD 0] = v.toNat := by decide
  simp only [charBits, hc, hv]

/-! ### Bytes filled from the front, and the bits that wait -/

/-- Byte `i` of a bit string. -/
def byteAt (bits : List Bool) (i : Nat) : Byte := BitVec.ofNat 8 (bitsValue ((bits.drop (8 * i)).take 8))

theorem decodeText_eq (str : List Byte) :
    decodeText str = (List.range (5 * (dataPart str).length / 8)).map (byteAt (textBits str)) := by rfl

/-- The last bits, too few for a byte. -/
def waiting (bits : List Bool) : List Bool := bits.drop (8 * (bits.length / 8))

theorem waiting_length (bits : List Bool) : (waiting bits).length = bits.length % 8 := by
  rw [waiting, List.length_drop]; omega

section
variable (bits more : List Bool)

theorem drop_whole_bytes : (bits ++ more).drop (8 * (bits.length / 8)) = waiting bits ++ more :=
  List.drop_append_of_le_length (by omega)

/-- More bits leave the bytes already filled alone. -/
theorem byteAt_append {i : Nat} (hi : i < bits.length / 8) : byteAt (bits ++ more) i = byteAt bits i := by
  rw [byteAt, byteAt, List.drop_append_of_le_length (by omega), List.take_append_of_le_length]
  rw [List.length_drop]; omega

/-- The next byte begins with the bits that wait. -/
theorem byteAt_append_next :
    byteAt (bits ++ more) (bits.length / 8) = BitVec.ofNat 8 (bitsValue ((waiting bits ++ more).take 8)) := by
  rw [byteAt, drop_whole_bytes]

theorem waiting_append_of_short (h : bits.length % 8 + more.length < 8) :
    waiting (bits ++ more) = waiting bits ++ more := by
  rw [waiting, List.length_append, show (bits.length + more.length) / 8 = bits.length / 8 by omega, drop_whole_bytes]

theorem waiting_append_of_full (h : 8 ≤ bits.length % 8 + more.length) (h' : bits.length % 8 + more.length < 16) :
    waiting (bits ++ more) = (waiting bits ++ more).drop 8 := by
  rw [waiting, List.length_append,
    show 8 * ((bits.length + more.length) / 8) = 8 * (bits.length / 8) + 8 by omega, ← List.drop_drop, drop_whole_bytes]

end

/-! ### What a session has loaded -/

/-- The bits read so far stand in the key buffer and the shifter: whole bytes in KEY, the rest in ACC. -/
structure Loaded (bits : List Bool) (s : State) : Prop where
  wf : s.key.wf = true
  keyLen : s.keyLen.toNat = bits.length / 8
  room : bits.length / 8 ≤ 64
  keyByte : ∀ i, i < bits.length / 8 → s.key.read i = byteAt bits i
  nbits : s.nbits.toNat = bits.length % 8
  acc : s.acc.toNat = bitsValue (waiting bits)

theorem Loaded.of_eq {bits : List Bool} {s t : State} (h : Loaded bits s) (hk : t.key = s.key)
    (hl : t.keyLen = s.keyLen) (hn : t.nbits = s.nbits) (ha : t.acc = s.acc) : Loaded bits t :=
  ⟨hk ▸ h.wf, hl ▸ h.keyLen, h.room, hk ▸ h.keyByte, hn ▸ h.nbits, ha ▸ h.acc⟩

theorem Loaded.keyBytes_eq {bits : List Bool} {s : State} (h : Loaded bits s) :
    keyBytes s = (List.range (bits.length / 8)).map (byteAt bits) := by
  rw [keyBytes, h.keyLen]
  exact List.map_congr_left fun i hi => h.keyByte i (List.mem_range.1 hi)

section
variable {bits : List Bool} {s : State} (h : Loaded bits s) {c : Byte} {v : BitVec 5} (hc : lut c = .value v)
include h

theorem Loaded.acc_lt : s.acc.toNat < 2 ^ s.nbits.toNat := by
  rw [h.acc, h.nbits, ← waiting_length]
  exact bitsValue_lt _

include hc

/-- The shifter's input is the waiting bits followed by the character's. -/
theorem Loaded.input_value : bitsValue (waiting bits ++ charBits c) = 32 * s.acc.toNat + v.toNat := by
  rw [bitsValue_append, bitsValue_charBits hc, charBits_length hc, h.acc]
  omega

/-- A data character that completes no byte (R420, R421). -/
theorem Loaded.concat_of_short (hn : s.nbits.toNat < 3) : Loaded (bits ++ charBits c) (dataChar s v) := by
  have hlen := charBits_length hc
  have hnb : s.nbits.toNat = bits.length % 8 := h.nbits
  have hq : (bits.length + 5) / 8 = bits.length / 8 := by omega
  have hval := h.input_value hc
  have hlt := shift_input_lt h.acc_lt v
  have hpow : 2 ^ (s.nbits.toNat + 5) ≤ 2 ^ 12 := Nat.pow_le_pow_right (by decide) (by omega)
  rw [dataChar_of_short h.acc_lt v hn]
  constructor
  case wf => exact h.wf
  case keyLen => rw [List.length_append, hlen, hq]; exact h.keyLen
  case room => rw [List.length_append, hlen, hq]; exact h.room
  case keyByte =>
    rw [List.length_append, hlen, hq]
    exact fun i hi => (h.keyByte i hi).trans (byteAt_append _ _ hi).symm
  case nbits =>
    change (BitVec.ofNat 3 (s.nbits.toNat + 5)).toNat = _
    rw [List.length_append, hlen, BitVec.toNat_ofNat]
    omega
  case acc =>
    change (BitVec.ofNat 12 (32 * s.acc.toNat + v.toNat)).toNat = _
    rw [waiting_append_of_short _ _ (by omega), hval, BitVec.toNat_ofNat, Nat.mod_eq_of_lt (by omega)]

/-- A data character that completes a byte (R420 to R422). -/
theorem Loaded.concat_of_room (hn : 3 ≤ s.nbits.toNat) (hl : s.keyLen.toNat < 64) :
    Loaded (bits ++ charBits c) (dataChar s v) := by
  have hlen := charBits_length hc
  have hnb : s.nbits.toNat = bits.length % 8 := h.nbits
  have hkl : s.keyLen.toNat = bits.length / 8 := h.keyLen
  have hq : (bits.length + 5) / 8 = bits.length / 8 + 1 := by omega
  have hwl : (waiting bits ++ charBits c).length - 8 = s.nbits.toNat - 3 := by
    rw [List.length_append, waiting_length, hlen]; omega
  have hval := h.input_value hc
  rw [dataChar_of_room h.acc_lt v hn hl]
  constructor
  case wf => exact Memory.wf_write hl h.wf
  case keyLen => rw [List.length_append, hlen, hq, ← hkl]; exact keyLen_succ hl
  case room => rw [List.length_append, hlen, hq]; omega
  case keyByte =>
    rw [List.length_append, hlen, hq]
    intro i hi
    by_cases hi' : i = s.keyLen.toNat
    · rw [hi']
      refine (storeKeyByte_read h.wf _).trans ?_
      rw [hkl, byteAt_append_next, bitsValue_take, hwl, hval]
    · rw [byteAt_append _ _ (by omega)]
      exact (storeKeyByte_read_other s _ hi').trans (h.keyByte i (by omega))
  case nbits =>
    change (BitVec.ofNat 3 (s.nbits.toNat - 3)).toNat = _
    rw [List.length_append, hlen, BitVec.toNat_ofNat]
    omega
  case acc =>
    change (BitVec.ofNat 12 ((32 * s.acc.toNat + v.toNat) % 2 ^ (s.nbits.toNat - 3))).toNat = _
    have hpow : 2 ^ (s.nbits.toNat - 3) ≤ 2 ^ 12 := Nat.pow_le_pow_right (by decide) (by omega)
    have hmod := Nat.mod_lt (32 * s.acc.toNat + v.toNat) (show 0 < 2 ^ (s.nbits.toNat - 3) by positivity)
    rw [waiting_append_of_full _ _ (by omega) (by omega), bitsValue_drop, hwl, hval, BitVec.toNat_ofNat,
      Nat.mod_eq_of_lt (by omega)]

end

/-! ### Which strings are valid (R400) -/

/-- Every byte is an alphabet character. -/
def DataChars (d : List Byte) : Prop := ∀ c ∈ d, ∃ v, lut c = .value v

theorem lut_padChar : lut padChar = .pad := by rfl

/-- '=' is the only byte of class PAD (R401). -/
theorem eq_padChar_of_lut {c : Byte} (h : lut c = .pad) : c = padChar := by
  revert c; decide +kernel

theorem ne_padChar_of_lut {c : Byte} {v : BitVec 5} (h : lut c = .value v) : c ≠ padChar := by
  rintro rfl
  rw [lut_padChar] at h
  cases h

theorem DataChars.concat {d : List Byte} (hd : DataChars d) {c : Byte} {v : BitVec 5} (hc : lut c = .value v) :
    DataChars (d ++ [c]) := by
  intro x hx
  rcases List.mem_append.1 hx with hx | hx
  · exact hd x hx
  · rw [List.mem_singleton.1 hx]; exact ⟨v, hc⟩

section
variable {d : List Byte} (hd : DataChars d)
include hd

theorem DataChars.bits_length : (d.flatMap charBits).length = 5 * d.length := by
  induction d with
  | nil => rfl
  | cons c d ih =>
    obtain ⟨v, hv⟩ := hd c List.mem_cons_self
    rw [List.flatMap_cons, List.length_append, charBits_length hv, ih fun x hx => hd x (List.mem_cons_of_mem _ hx),
      List.length_cons]
    omega

theorem DataChars.not_pad : ∀ c ∈ d, (c != padChar) = true := fun c hc => by
  obtain ⟨v, hv⟩ := hd c hc
  exact bne_iff_ne.2 (ne_padChar_of_lut hv)

theorem DataChars.dataPart_append (x : List Byte) : dataPart (d ++ x) = d ++ dataPart x :=
  List.takeWhile_append_of_pos hd.not_pad

theorem DataChars.padPart_append (x : List Byte) : padPart (d ++ x) = padPart x :=
  List.dropWhile_append_of_pos hd.not_pad

theorem DataChars.all_valid : d.all (fun c => lut c != .invalid) = true := by
  refine List.all_eq_true.2 fun c hc => ?_
  obtain ⟨v, hv⟩ := hd c hc
  simp [hv]

/-- Without padding the length decides. -/
theorem DataChars.validText_iff : validText d = true ↔ d.length % 8 = 0 := by
  have hp : padPart d = [] := by simpa [padPart] using hd.padPart_append []
  simp [validText, hd.all_valid, hp]

/-- With padding the string is valid when only '=' follows, 1, 3, 4 or 6 of them, to the end of a quantum. -/
theorem DataChars.validText_padded_iff (x : List Byte) :
    validText (d ++ padChar :: x) = true ↔
      (d.length + (x.length + 1)) % 8 = 0 ∧ (∀ c ∈ x, c = padChar) ∧
        (x.length = 0 ∨ x.length = 2 ∨ x.length = 3 ∨ x.length = 5) := by
  have hp : padPart (d ++ padChar :: x) = padChar :: x := by rw [hd.padPart_append]; rfl
  have hx : (∀ c ∈ x, c = padChar) → ∀ c ∈ x, lut c ≠ .invalid := fun h c hc => by rw [h c hc]; decide
  simp only [validText, hp, List.all_append, hd.all_valid, Bool.and_eq_true, beq_iff_eq, List.length_append,
    List.length_cons, List.all_cons, List.all_eq_true, bne_iff_ne, List.contains_eq_mem, decide_eq_true_eq,
    List.mem_cons, List.not_mem_nil, or_false]
  constructor
  · rintro ⟨⟨⟨hlen, -⟩, -, hall⟩, hn⟩
    exact ⟨hlen, hall, by omega⟩
  · rintro ⟨hlen, hall, hn⟩
    exact ⟨⟨⟨hlen, trivial, by decide, hx hall⟩, trivial, hall⟩, by omega⟩

end

/-! ### Strings that can no longer be accepted -/

/-- A valid string of at most 64 key bytes (R403). -/
def Accepted (str : List Byte) : Prop := validText str = true ∧ 5 * (dataPart str).length / 8 ≤ 64

/-- No continuation of `str` is accepted. -/
def Doomed (str : List Byte) : Prop := ∀ rest, ¬Accepted (str ++ rest)

theorem Doomed.append {str : List Byte} (h : Doomed str) (x : List Byte) : Doomed (str ++ x) := fun rest => by
  rw [List.append_assoc]; exact h (x ++ rest)

theorem doomed_of_invalid (str : List Byte) {c : Byte} (hc : lut c = .invalid) : Doomed (str ++ [c]) := by
  rintro rest ⟨hv, -⟩
  simp [validText, hc] at hv

section
variable {d : List Byte} (hd : DataChars d)
include hd

/-- More than 64 bytes. -/
theorem DataChars.doomed_of_overflow (h : 64 < 5 * d.length / 8) : Doomed d := by
  rintro rest ⟨-, hle⟩
  rw [hd.dataPart_append, List.length_append] at hle
  omega

/-- What a valid string that begins with `d` and at least one '=' is. -/
theorem DataChars.padding_of_valid {n : Nat} {rest : List Byte}
    (h : validText (d ++ List.replicate (n + 1) padChar ++ rest) = true) :
    (∀ c ∈ rest, c = padChar) ∧ (d.length + (n + rest.length + 1)) % 8 = 0 ∧ n + rest.length + 1 ≤ 6 ∧
      (d.length % 8 = 2 ∨ d.length % 8 = 4 ∨ d.length % 8 = 5 ∨ d.length % 8 = 7) := by
  rw [List.append_assoc, List.replicate_succ, List.cons_append, hd.validText_padded_iff, List.length_append,
    List.length_replicate] at h
  obtain ⟨hlen, hall, hn⟩ := h
  exact ⟨fun c hc => hall c (List.mem_append_right _ hc), hlen, by omega, by omega⟩

/-- '=' at an illegal position (R402). -/
theorem DataChars.doomed_of_illegalPad
    (h : d.length % 8 = 0 ∨ d.length % 8 = 1 ∨ d.length % 8 = 3 ∨ d.length % 8 = 6) : Doomed (d ++ [padChar]) := by
  rintro rest ⟨hv, -⟩
  obtain ⟨-, -, -, hlegal⟩ := hd.padding_of_valid (n := 0) hv
  omega

/-- Another character after '='. -/
theorem DataChars.doomed_of_dataAfterPad (n : Nat) {c : Byte} (hc : c ≠ padChar) :
    Doomed (d ++ List.replicate (n + 1) padChar ++ [c]) := by
  rintro rest ⟨hv, -⟩
  rw [List.append_assoc _ [c]] at hv
  exact hc ((hd.padding_of_valid hv).1 c List.mem_cons_self)

/-- '=' after a complete padded quantum. -/
theorem DataChars.doomed_of_padAfterFull {n : Nat} (hn : d.length % 8 + (n + 1) = 8) :
    Doomed (d ++ List.replicate (n + 1) padChar ++ [padChar]) := by
  rintro rest ⟨hv, -⟩
  rw [List.append_assoc _ [padChar]] at hv
  obtain ⟨-, hlen, hle, -⟩ := hd.padding_of_valid hv
  simp only [List.singleton_append, List.length_cons] at hlen hle
  omega

end

/-! ### The invariant of a session -/

/-- The four errors of a failed session (R403). -/
def IsSessionError (e : ErrCode) : Prop := e = .b32Char ∨ e = .b32Pad ∨ e = .b32Len ∨ e = .keyOvf

/-- Where padding may start (R402). -/
def PadMayFollow (d : List Byte) : Prop :=
  d.length % 8 = 2 ∨ d.length % 8 = 4 ∨ d.length % 8 = 5 ∨ d.length % 8 = 7

/-- The open session after the characters `str`, where ERR was `e₀` before it. -/
inductive Session (e₀ : ErrCode) (str : List Byte) (s : State) : Prop
  /-- data characters only -/
  | data (hd : DataChars str) (hst : s.b32st = .data) (hv : s.keyValid = false) (he : s.err = e₀)
      (hpos : s.b32pos.toNat = str.length % 8) (hl : Loaded (str.flatMap charBits) s)
  /-- data characters and at least one '=': inside the padding, or the padded quantum complete -/
  | padded (d : List Byte) (n : Nat) (hstr : str = d ++ List.replicate (n + 1) padChar) (hd : DataChars d)
      (hlegal : PadMayFollow d) (hv : s.keyValid = false) (he : s.err = e₀)
      (hst : s.b32st = .pad ∧ s.b32pos.toNat = d.length % 8 + (n + 1) ∨
        s.b32st = .full ∧ d.length % 8 + (n + 1) = 8)
      (hl : Loaded (d.flatMap charBits) s)
  /-- failed -/
  | failed (hst : s.b32st = .error) (hv : s.keyValid = false) (he : e₀ = .none → IsSessionError s.err)
      (hdoom : Doomed str)

namespace Session

variable {e₀ : ErrCode} {str : List Byte} {s : State} {c : Byte}

/-- The invariant speaks of the key buffer, the decoder and ERR only. -/
theorem congr {t : State} (h : Session e₀ str s) (hp : loadPart t = loadPart s) (herr : t.err = s.err) :
    Session e₀ str t := by
  simp only [loadPart, LoadPart.mk.injEq] at hp
  obtain ⟨hkv, hst', hpos', hacc, hnb, hkl, hkey⟩ := hp
  cases h with
  | data hd hst hv he hpos hl =>
    exact .data hd (hst'.trans hst) (hkv.trans hv) (herr.trans he) (hpos' ▸ hpos) (hl.of_eq hkey hkl hnb hacc)
  | padded d n hstr hd hlegal hv he hst hl =>
    exact .padded d n hstr hd hlegal (hkv.trans hv) (herr.trans he) (by rwa [hst', hpos'])
      (hl.of_eq hkey hkl hnb hacc)
  | failed hst hv he hdoom => exact .failed (hst'.trans hst) (hkv.trans hv) (herr ▸ he) hdoom

/-- A character that makes an open session fail. -/
theorem of_failChar (hv : s.keyValid = false) (he : s.err = e₀) {e : ErrCode} (hse : IsSessionError e)
    (hdoom : Doomed str) : Session e₀ str (failChar s e) :=
  .failed rfl hv (fun h0 => by rw [failChar, setDecoder_err, raiseError_err, he, if_pos h0]; exact hse) hdoom

/-- A data character in state DATA. -/
theorem dataChar_of_data {v : BitVec 5} (hc : lut c = .value v) (hd : DataChars str) (hst : s.b32st = .data)
    (hv : s.keyValid = false) (he : s.err = e₀) (hpos : s.b32pos.toNat = str.length % 8)
    (hl : Loaded (str.flatMap charBits) s) : Session e₀ (str ++ [c]) (dataChar s v) := by
  have hd' := hd.concat hc
  have hpos' : (s.b32pos + 1).toNat = (str ++ [c]).length % 8 := by
    rw [toNat_pos_succ, List.length_append, List.length_singleton]; omega
  have hbits : (str ++ [c]).flatMap charBits = str.flatMap charBits ++ charBits c := by simp
  have hnb : s.nbits.toNat = (str.flatMap charBits).length % 8 := hl.nbits
  have hkl : s.keyLen.toNat = (str.flatMap charBits).length / 8 := hl.keyLen
  rw [hd.bits_length] at hnb hkl
  by_cases hn : s.nbits.toNat < 3
  · have hl' := hl.concat_of_short hc hn
    rw [← hbits] at hl'
    rw [dataChar_of_short hl.acc_lt v hn] at hl' ⊢
    exact .data hd' hst hv he hpos' hl'
  by_cases hroom : s.keyLen.toNat < 64
  · have hl' := hl.concat_of_room hc (by omega) hroom
    rw [← hbits] at hl'
    rw [dataChar_of_room hl.acc_lt v (by omega) hroom] at hl' ⊢
    exact .data hd' hst hv he hpos' hl'
  · rw [dataChar_of_overflow hl.acc_lt v (by omega) (by omega)]
    refine of_failChar hv he (by simp [IsSessionError]) (hd'.doomed_of_overflow ?_)
    rw [List.length_append, List.length_singleton]
    omega

/-- '=' in state DATA. -/
theorem pad_of_data (hd : DataChars str) (hst : s.b32st = .data) (hv : s.keyValid = false) (he : s.err = e₀)
    (hpos : s.b32pos.toNat = str.length % 8) (hl : Loaded (str.flatMap charBits) s) :
    Session e₀ (str ++ [padChar]) (decodeChar s padChar) := by
  have hp (k : Nat) (hk : k < 8) (h : str.length % 8 = k) : s.b32pos = BitVec.ofNat 3 k :=
    BitVec.eq_of_toNat_eq (by rw [hpos, h, BitVec.toNat_ofNat, Nat.mod_eq_of_lt hk])
  by_cases h7 : str.length % 8 = 7
  · rw [decodeChar_pad_completes (.inl hst) lut_padChar (hp 7 (by omega) h7)]
    exact .padded str 0 rfl hd (.inr (.inr (.inr h7))) hv he (.inr ⟨rfl, by omega⟩) (hl.of_eq rfl rfl rfl rfl)
  by_cases hlegal : str.length % 8 = 2 ∨ str.length % 8 = 4 ∨ str.length % 8 = 5
  · rw [decodeChar_pad_opens hst lut_padChar
      (hlegal.imp (hp 2 (by omega)) (Or.imp (hp 4 (by omega)) (hp 5 (by omega))))]
    refine .padded str 0 rfl hd (hlegal.imp_right (Or.imp_right .inl)) hv he (.inl ⟨rfl, ?_⟩) (hl.of_eq rfl rfl rfl rfl)
    change (s.b32pos + 1).toNat = _
    rw [toNat_pos_succ]
    omega
  · have hill : str.length % 8 = 0 ∨ str.length % 8 = 1 ∨ str.length % 8 = 3 ∨ str.length % 8 = 6 := by omega
    rw [decodeChar_pad_illegal hst lut_padChar (hill.imp (hp 0 (by omega)) (Or.imp (hp 1 (by omega))
      (Or.imp (hp 3 (by omega)) (hp 6 (by omega)))))]
    exact of_failChar hv he (by simp [IsSessionError]) (hd.doomed_of_illegalPad hill)

/-- '=' in state PAD. -/
theorem pad_of_pad {n : Nat} (hd : DataChars str) (hlegal : PadMayFollow str) (hst : s.b32st = .pad)
    (hv : s.keyValid = false) (he : s.err = e₀) (hpos : s.b32pos.toNat = str.length % 8 + (n + 1))
    (hl : Loaded (str.flatMap charBits) s) :
    Session e₀ (str ++ List.replicate (n + 1) padChar ++ [padChar]) (decodeChar s padChar) := by
  have hstr : str ++ List.replicate (n + 1) padChar ++ [padChar] = str ++ List.replicate (n + 1 + 1) padChar := by
    rw [List.append_assoc, ← List.replicate_succ']
  by_cases h7 : s.b32pos = 7
  · rw [decodeChar_pad_completes (.inr hst) lut_padChar h7]
    rw [h7] at hpos
    exact .padded str (n + 1) hstr hd hlegal hv he (.inr ⟨rfl, by simp at hpos; omega⟩) (hl.of_eq rfl rfl rfl rfl)
  · have h7' : s.b32pos.toNat ≠ 7 := fun h => h7 (BitVec.eq_of_toNat_eq h)
    have hlt := s.b32pos.isLt
    rw [decodeChar_pad_goesOn hst lut_padChar h7]
    refine .padded str (n + 1) hstr hd hlegal hv he (.inl ⟨hst, ?_⟩) (hl.of_eq rfl rfl rfl rfl)
    change (s.b32pos + 1).toNat = _
    rw [toNat_pos_succ]
    omega

/-- Every character keeps the invariant. -/
theorem concat (h : Session e₀ str s) (c : Byte) : Session e₀ (str ++ [c]) (decodeChar s c) := by
  cases h with
  | data hd hst hv he hpos hl =>
    cases hc : lut c with
    | invalid =>
      rw [decodeChar_invalid (.inl hst) hc]
      exact of_failChar hv he (by simp [IsSessionError]) (doomed_of_invalid str hc)
    | value v => rw [decodeChar_data hst hc]; exact dataChar_of_data hc hd hst hv he hpos hl
    | pad => rw [eq_padChar_of_lut hc]; exact pad_of_data hd hst hv he hpos hl
  | padded d n hstr hd hlegal hv he hst hl =>
    subst hstr
    have hst' : s.b32st = .pad ∨ s.b32st = .full := hst.imp And.left And.left
    cases hc : lut c with
    | invalid =>
      rw [decodeChar_invalid (.inr hst') hc]
      exact of_failChar hv he (by simp [IsSessionError]) (doomed_of_invalid _ hc)
    | value v =>
      rw [decodeChar_data_afterPad hst' hc]
      exact of_failChar hv he (by simp [IsSessionError]) (hd.doomed_of_dataAfterPad n (ne_padChar_of_lut hc))
    | pad =>
      rw [eq_padChar_of_lut hc]
      rcases hst with ⟨hst, hpos⟩ | ⟨hst, hpos⟩
      · exact pad_of_pad hd hlegal hst hv he hpos hl
      · rw [decodeChar_pad_afterFull hst lut_padChar]
        exact of_failChar hv he (by simp [IsSessionError]) (hd.doomed_of_padAfterFull hpos)
  | failed hst hv he hdoom =>
    rw [decodeChar_error hst]
    exact .failed hst hv he (hdoom.append [c])

end Session

/-! ### The verdict (R430) -/

/-- What R403 says of the state after a session on `str`, where ERR was `e₀` before it. -/
structure SessionResult (e₀ : ErrCode) (str : List Byte) (t : State) : Prop where
  closed : t.b32st = .idle
  accepted : Accepted str →
    t.keyValid = true ∧ t.keyLen.toNat = 5 * (dataPart str).length / 8 ∧ keyBytes t = decodeText str
  refused : ¬Accepted str → t.keyValid = false ∧ (e₀ = .none → IsSessionError t.err)

section
variable {e₀ : ErrCode} {str : List Byte} {s : State}

/-- B32END at the end of a quantum, with the data characters `d` loaded. -/
theorem sessionResult_valid {d : List Byte} (hd : DataChars d) (hdata : dataPart str = d)
    (hvalid : validText str = true) (hl : Loaded (d.flatMap charBits) s) :
    SessionResult e₀ str (restartDecoder (setKeyValid s true) .idle) := by
  have hlen : s.keyLen.toNat = 5 * d.length / 8 := by rw [← hd.bits_length]; exact hl.keyLen
  have hroom := hl.room
  rw [hd.bits_length] at hroom
  refine ⟨rfl, fun _ => ⟨rfl, ?_, ?_⟩, fun h => absurd ⟨hvalid, ?_⟩ h⟩
  · rw [hdata]; exact hlen
  · rw [decodeText_eq, textBits, hdata, ← hd.bits_length]; exact hl.keyBytes_eq
  · rwa [hdata]

/-- B32END on a session that failed, or inside a quantum. -/
theorem sessionResult_refused (hstr : ¬Accepted str) (hv : s.keyValid = false)
    (he : e₀ = .none → IsSessionError s.err) : SessionResult e₀ str (restartDecoder s .idle) :=
  ⟨rfl, fun h => absurd h hstr, fun _ => ⟨hv, he⟩⟩

/-- B32END inside a quantum. -/
theorem sessionResult_short (hstr : ¬Accepted str) (hv : s.keyValid = false) (he : s.err = e₀) :
    SessionResult e₀ str (restartDecoder (raiseError s .b32Len) .idle) :=
  sessionResult_refused hstr hv fun h0 => by rw [raiseError_err, he, if_pos h0]; simp [IsSessionError]

theorem SessionResult.finish (h : SessionResult e₀ str s) : SessionResult e₀ str (finish s) :=
  ⟨h.closed, h.accepted, h.refused⟩

theorem Session.verdict (h : Session e₀ str s) : SessionResult e₀ str (endSession s) := by
  cases h with
  | data hd hst hv he hpos hl =>
    by_cases h0 : s.b32pos = 0
    · rw [endSession_atBoundary (.inr ⟨hst, h0⟩)]
      refine sessionResult_valid hd ?_ (hd.validText_iff.2 ?_) hl
      · simpa [dataPart] using hd.dataPart_append []
      · rw [← hpos, h0]; rfl
    · rw [endSession_insideQuantum (.inr ⟨hst, h0⟩)]
      refine sessionResult_short (fun ha => h0 (BitVec.eq_of_toNat_eq ?_)) hv he
      rw [hpos, hd.validText_iff.1 ha.1]; rfl
  | padded d n hstr hd hlegal hv he hst hl =>
    have hvalid := hd.validText_padded_iff (List.replicate n padChar)
    rw [← List.replicate_succ, ← hstr, List.length_replicate] at hvalid
    rcases hst with ⟨hst, hpos⟩ | ⟨hst, hpos⟩
    · have hlt := s.b32pos.isLt
      rw [endSession_insideQuantum (.inl hst)]
      refine sessionResult_short (fun ha => ?_) hv he
      obtain ⟨hlen, -⟩ := hvalid.1 ha.1
      omega
    · have hdata : dataPart str = d := by
        rw [hstr, hd.dataPart_append, List.replicate_succ]; exact List.append_nil d
      rw [PadMayFollow] at hlegal
      rw [endSession_atBoundary (.inl hst)]
      exact sessionResult_valid hd hdata
        (hvalid.2 ⟨by omega, fun c hc => List.eq_of_mem_replicate hc, by omega⟩) hl
  | failed hst hv he hdoom =>
    rw [endSession_error hst]
    refine sessionResult_refused ?_ hv he
    simpa using hdoom []

end

/-! ### Commands issued one after another (R307) -/

/-- A command issued to an idle block and run to its completion. -/
theorem runCommand_of_idle {s : State} (hb : s.busy = false) {i : Instr} (hi : i ≠ .srst) :
    runCommand s i = mapNext finish (exec i (accept s (encode i))) := by
  have hd : decode (encode i) = .ok i := encodeThenDecode i
  have hl : legal (encode i) = true := (legal_iff_decode _).2 ⟨i, hd⟩
  have hw : encode i ≠ srstWord := fun h => hi (by rw [h] at hd; exact Except.ok.inj (hd.symm.trans decode_srstWord))
  have hissue : issue s (encode i) = .next (accept s (encode i)) := by simp [issue, hb, hl, hw]
  rw [runCommand, hissue]
  change sequencerStep (accept s (encode i)) = _
  rw [sequencerStep, accept_busy, if_pos rfl, complete, accept_pend, hd]

/-- After B32BEGIN nothing is read and nothing is loaded (R410). -/
theorem session_of_b32begin (s : State) : Session s.err [] (restartDecoder (setKeyValid (clearKey s) false) .data) :=
  .data nofun rfl rfl rfl rfl ⟨rfl, rfl, Nat.zero_le _, nofun, rfl, rfl⟩

/-- The rest of a session, from its invariant. -/
theorem runCommands_of_session {e₀ : ErrCode} (rest : List Byte) {str : List Byte} {s : State} (hb : s.busy = false)
    (h : Session e₀ str s) :
    ∃ t, runCommands s (rest.map .b32char ++ [.b32end]) = .next t ∧ SessionResult e₀ (str ++ rest) t := by
  induction rest generalizing str s with
  | nil =>
    have hr := (h.congr (t := accept s (encode .b32end)) rfl rfl).verdict
    rw [List.append_nil]
    refine ⟨finish (endSession (accept s (encode .b32end))), ?_, hr.finish⟩
    rw [List.map_nil, List.nil_append, runCommands, runCommand_of_idle hb (by simp), exec_b32end]
    rfl
  | cons c rest ih =>
    have hc := ((h.congr (t := accept s (encode (.b32char c))) rfl rfl).concat c).congr
      (loadPart_finish _) (finish_err _)
    obtain ⟨t, ht, hres⟩ := ih (finish_busy _) hc
    rw [List.append_assoc] at hres
    refine ⟨t, ?_, hres⟩
    rw [List.map_cons, List.cons_append, runCommands, runCommand_of_idle hb (by simp), exec_b32char, mapNext_next]
    exact ht

/-- Settles O37: B32BEGIN establishes the invariant, each character keeps it, B32END reads the verdict off it. -/
theorem sessionDecodesString : Obligations.SessionDecodesString := by
  intro s str hb
  have h0 := (session_of_b32begin (accept s (encode .b32begin))).congr (loadPart_finish _) (finish_err _)
  obtain ⟨t, ht, hres⟩ := runCommands_of_session str (finish_busy _) h0
  rw [List.nil_append] at hres
  refine ⟨t, ?_, hres.closed, hres.accepted, hres.refused⟩
  rw [b32Commands, runCommands, runCommand_of_idle hb (by simp), exec_b32begin]
  exact ht

end Sys2Proof.Machine

/-! PROOFS. The round processor computes SHA-1's compression (42_hmac_sha1.md R508 to R512): the circular schedule
buffer holds the last sixteen schedule words, and each round cycle is a round of R505. -/

namespace Sys2Proof.Machine

/-! ### The circular schedule buffer (R508, R509) -/

theorem slot_val (i : Nat) : (slot i).val = i % 16 := rfl

/-- The first sixteen schedule words are the block's (R505). -/
theorem schedule_of_lt (m : Block) {t : Nat} (h : t < 16) : schedule m t = m[slot t] := by
  rw [schedule]
  · rfl
  · omega

/-- The words after the first sixteen (R505). -/
theorem schedule_add_sixteen (m : Block) (n : Nat) : schedule m (n + 16) =
    rol32 (schedule m (n + 13) ^^^ schedule m (n + 8) ^^^ schedule m (n + 2) ^^^ schedule m n) 1 := by
  rw [schedule]

/-- Before round t the buffer `w` holds the block until t = 16, and the last sixteen schedule words from then on. -/
def HoldsSchedule (m : Block) (t : Nat) (w : Block) : Prop :=
  ∀ j, j < max t 16 → t ≤ j + 16 → w[slot j] = schedule m j

theorem holdsSchedule_load (m : Block) : HoldsSchedule m 0 m := fun _ hj _ => (schedule_of_lt m (by omega)).symm

theorem advanceSchedule_of_lt {t : Nat} (h : t < 16) (w : Block) : advanceSchedule t w = w := if_neg (by omega)

theorem getElem_set_slot_same (w : Block) (i : Nat) (v : Word) : (w.set (slot i) v)[slot i] = v :=
  Vector.getElem_set_self _

theorem getElem_set_slot_other (w : Block) {i j : Nat} (h : i % 16 ≠ j % 16) (v : Word) :
    (w.set (slot i) v)[slot j] = w[slot j] :=
  Vector.getElem_set_ne _ _ h

namespace HoldsSchedule

variable {m w : Block} {n t : Nat}

/-- The word that slot t mod 16 receives at round t ≥ 16 is W_t. -/
theorem replacement (h : HoldsSchedule m (n + 16) w) :
    rol32 (w[slot (n + 16 + 13)] ^^^ w[slot (n + 16 + 8)] ^^^ w[slot (n + 16 + 2)] ^^^ w[slot (n + 16)]) 1 =
      schedule m (n + 16) := by
  rw [schedule_add_sixteen, ← h (n + 13) (by omega) (by omega), ← h (n + 8) (by omega) (by omega),
    ← h (n + 2) (by omega) (by omega), ← h n (by omega) (by omega),
    getElem_slot w (i := n + 16 + 13) (j := n + 13) (by omega),
    getElem_slot w (i := n + 16 + 8) (j := n + 8) (by omega),
    getElem_slot w (i := n + 16 + 2) (j := n + 2) (by omega), getElem_slot w (i := n + 16) (j := n) (by omega)]

theorem advanceSchedule_eq (h : HoldsSchedule m (n + 16) w) :
    advanceSchedule (n + 16) w = w.set (slot (n + 16)) (schedule m (n + 16)) := by
  rw [advanceSchedule, if_pos (by omega), h.replacement]

/-- A round finds W_t in its slot (R509). -/
theorem word (h : HoldsSchedule m t w) : (advanceSchedule t w)[slot t] = schedule m t := by
  rcases Nat.lt_or_ge t 16 with ht | ht
  · rw [advanceSchedule_of_lt ht]
    exact h t (by omega) (by omega)
  · obtain ⟨n, rfl⟩ := Nat.exists_eq_add_of_le' ht
    rw [h.advanceSchedule_eq]
    exact getElem_set_slot_same _ _ _

theorem advance (h : HoldsSchedule m t w) : HoldsSchedule m (t + 1) (advanceSchedule t w) := by
  intro j hj hlo
  rcases Nat.lt_or_ge t 16 with ht | ht
  · rw [advanceSchedule_of_lt ht]
    exact h j (by omega) (by omega)
  · obtain ⟨n, rfl⟩ := Nat.exists_eq_add_of_le' ht
    by_cases hjt : j = n + 16
    · rw [hjt, h.word]
    · rw [h.advanceSchedule_eq, getElem_set_slot_other _ (by omega)]
      exact h j (by omega) (by omega)

/-- A slot as it is numbered from round t holds the schedule word sixteen rounds back from that number. -/
theorem lookback (h : HoldsSchedule m t w) {k : Nat} (hk : k < 16) (ht : 16 ≤ t) :
    w[slot (t + k)] = schedule m (t - (16 - k)) := by
  rw [← h (t - (16 - k)) (by omega) (by omega)]
  exact getElem_slot w (by omega)

end HoldsSchedule

/-! ### Rounds of the loaded unit -/

/-- The round counter of a loaded unit counts from 0, up to 127. -/
theorem ShaUnit.toNat_t_rounds_load (u : ShaUnit) (m : Block) {n : Nat} (h : n < 128) :
    ((u.load m).rounds n).t.toNat = n := by
  simp [rounds_t, Nat.mod_eq_of_lt h]

theorem ShaUnit.holdsSchedule_rounds (u : ShaUnit) (m : Block) {n : Nat} (h : n ≤ 80) :
    HoldsSchedule m n ((u.load m).rounds n).w := by
  induction n with
  | zero => exact holdsSchedule_load m
  | succ n ih =>
    rw [rounds_succ, round_w, toNat_t_rounds_load u m (by omega)]
    exact (ih (by omega)).advance

/-- Settles O42: the buffer holds the last sixteen words, counted back from t. -/
theorem circularScheduleYieldsWords : Obligations.CircularScheduleYieldsWords := by
  intro u m t ht
  have h := u.holdsSchedule_rounds m ht.le
  exact ⟨h.word, fun h16 => ⟨h.lookback (k := 13) (by omega) h16, h.lookback (k := 8) (by omega) h16,
    h.lookback (k := 2) (by omega) h16, h.lookback (k := 0) (by omega) h16⟩⟩

/-! ### A round cycle is a round (R510) -/

/-- The quotient t div 20 selects f_t (R502, R510). -/
theorem selectF_div (t : Nat) : selectF (t / 20) = sha1F t := by
  funext b c d
  unfold sha1F
  split_ifs with h19 h39 h59
  · rw [show t / 20 = 0 by omega]; rfl
  · rw [show t / 20 = 1 by omega]; rfl
  · rw [show t / 20 = 2 by omega]; rfl
  · obtain ⟨q, hq⟩ := Nat.exists_eq_add_of_le' (show 3 ≤ t / 20 by omega)
    rw [hq]; rfl

/-- The quotient t div 20 selects K_t (R501, R510). -/
theorem selectK_div (t : Nat) : selectK (t / 20) = sha1K t := by
  unfold sha1K
  split_ifs with h19 h39 h59
  · rw [show t / 20 = 0 by omega]; rfl
  · rw [show t / 20 = 1 by omega]; rfl
  · rw [show t / 20 = 2 by omega]; rfl
  · obtain ⟨q, hq⟩ := Nat.exists_eq_add_of_le' (show 3 ≤ t / 20 by omega)
    rw [hq]; rfl

theorem ShaUnit.round_work {u : ShaUnit} {t : Nat} (ht : u.t.toNat = t) :
    u.round.work = sha1Round t (advanceSchedule t u.w)[slot t] u.work := by
  subst ht
  rw [sha1Round, ← selectF_div, ← selectK_div]; rfl

/-- The rounds of a loaded unit are the rounds of R505. -/
theorem ShaUnit.work_rounds_load (u : ShaUnit) (m : Block) {n : Nat} (h : n ≤ 80) :
    ((u.load m).rounds n).work = sha1Rounds m n (Working.ofDigest u.h) := by
  induction n with
  | zero => rfl
  | succ n ih =>
    rw [rounds_succ, round_work (u.toNat_t_rounds_load m (by omega)), (u.holdsSchedule_rounds m (by omega)).word,
      ih (by omega), sha1Rounds]

/-- The hardware's compression is Compress(H, b) (R512). -/
theorem ShaUnit.compress_eq_sha1Compress (u : ShaUnit) (m : Block) : (u.compress m).h = sha1Compress u.h m := by
  rw [compress_h, work_rounds_load u m le_rfl, sha1Compress]

/-- Settles O41: the final addition by its definition, the compression by induction over its rounds. -/
theorem roundProcessorCompresses : Obligations.RoundProcessorCompresses := fun u m =>
  ⟨by rfl, u.compress_eq_sha1Compress m⟩

end Sys2Proof.Machine

/-! PROOFS. The padded messages of HMAC (42_hmac_sha1.md R503, R520, R530, R531): the words of a byte string, the
padding, the blocks of the four phases, and that the sequencer's MAC is HMAC-SHA1 (R532). -/

namespace Sys2Proof.Machine

/-! ### The words of a byte string (00_scope.md R10) -/

theorem blockOf_congr {f g : Nat → Word} (h : ∀ j, j < 16 → f j = g j) : blockOf f = blockOf g := by
  unfold blockOf
  simp (disch := decide) only [h]

/-- The words behind `a` are the words of the rest. -/
theorem be32At_append_right (a b : List Byte) (i : Nat) : be32At (a ++ b) (a.length + i) = be32At b i := by
  simp only [be32At, Nat.add_assoc, List.getD_append_right _ _ _ _ (Nat.le_add_right _ _), Nat.add_sub_cancel_left]

/-- The block behind `a` is a block of the rest (R504). -/
theorem blockAt_append_right (a b : List Byte) : blockAt (a ++ b) a.length = blockAt b 0 :=
  blockOf_congr fun j _ => by rw [be32At_append_right, Nat.zero_add]

/-- The block inside `a` is a block of `a` (R504). -/
theorem blockAt_append_left {a : List Byte} (ha : a.length = 64) (b : List Byte) : blockAt (a ++ b) 0 = blockAt a 0 :=
  blockOf_congr fun j hj => by
    simp (disch := omega) only [be32At, List.getD_append]

/-- The word at the front of a byte string that begins with a word's bytes is that word. -/
theorem be32At_bytesOfWord_append (w : Word) (s : List Byte) : be32At (bytesOfWord w ++ s) 0 = w := be32_bytesOfWord w

/-- The bytes of words read back as the words. -/
theorem be32At_flatMap_bytesOfWord (ws : List Word) (j : Nat) :
    be32At (ws.flatMap bytesOfWord) (4 * j) = ws.getD j 0 := by
  induction ws generalizing j with
  | nil => simp [be32At, be32]
  | cons w ws ih =>
    rw [List.flatMap_cons]
    cases j with
    | zero => exact be32At_bytesOfWord_append w _
    | succ j =>
      rw [show 4 * (j + 1) = (bytesOfWord w).length + 4 * j from Nat.add_comm _ _, be32At_append_right, ih]; rfl

theorem getElem_blockOf (f : Nat → Word) {i : Nat} (hi : i < 16) : (blockOf f)[i] = f i := by
  interval_cases i <;> rfl

/-- A block's bytes parse as the block (R504). -/
theorem blockAt_toList_flatMap (m : Block) : blockAt (m.toList.flatMap bytesOfWord) 0 = m := by
  refine Vector.ext fun i hi => ?_
  rw [blockAt, getElem_blockOf _ hi, Nat.zero_add, be32At_flatMap_bytesOfWord]
  simp [hi]

/-- The eight bytes of a counter are those of its two halves (20_memory.md R203). -/
theorem be64_append (hi lo : Word) : be64 (hi ++ lo) = bytesOfWord hi ++ bytesOfWord lo := by
  have hhi (i : Nat) : (hi ++ lo).extractLsb' (32 + i) 8 = hi.extractLsb' i 8 := by
    refine BitVec.eq_of_getLsbD_eq fun k hk => ?_
    rw [BitVec.getLsbD_extractLsb', BitVec.getLsbD_extractLsb', BitVec.getLsbD_append, if_neg (by omega)]
    simp [Nat.add_assoc]
  have hlo (i : Nat) (h : i + 8 ≤ 32) : (hi ++ lo).extractLsb' i 8 = lo.extractLsb' i 8 := by
    refine BitVec.eq_of_getLsbD_eq fun k hk => ?_
    rw [BitVec.getLsbD_extractLsb', BitVec.getLsbD_extractLsb', BitVec.getLsbD_append, if_pos (by omega)]
  rw [bytesOfWord, bytesOfWord, ← hhi, ← hhi, ← hhi, ← hhi, ← hlo 24 (by decide), ← hlo 16 (by decide),
    ← hlo 8 (by decide), ← hlo 0 (by decide)]
  rfl

@[simp] theorem length_be64 (c : BitVec 64) : (be64 c).length = 8 := by rfl

@[simp] theorem Digest.length_bytes (d : Digest) : d.bytes.length = 20 := by rfl

/-! ### Padding (R503) -/

/-- The number of zero bytes of the padding of a message of `n` bytes. -/
def padZeros (n : Nat) : Nat := (119 - n % 64) % 64

theorem sha1Pad_eq (msg : List Byte) : sha1Pad msg =
    msg ++ [0x80] ++ List.replicate (padZeros msg.length) 0 ++ be64 (BitVec.ofNat 64 (8 * msg.length)) := by
  simp [sha1Pad, padZeros]

/-- The zeros fill the block up to its last eight bytes. -/
theorem padZeros_fill (n : Nat) : (n + 1 + padZeros n) % 64 = 56 := by unfold padZeros; omega

/-- No fewer zeros do. -/
theorem padZeros_le {n j : Nat} (h : (n + 1 + j) % 64 = 56) : padZeros n ≤ j := by unfold padZeros; omega

theorem length_sha1Pad (msg : List Byte) : (sha1Pad msg).length = msg.length + padZeros msg.length + 9 := by
  rw [sha1Pad_eq]
  simp
  omega

theorem length_hmacK0 {k : List Byte} (h : k.length ≤ 64) : (hmacK0 k).length = 64 := by
  rw [hmacK0, List.length_append, List.length_replicate, Config.sha1BlockBytes]
  omega

theorem length_xorPad {k : List Byte} (h : k.length ≤ 64) (p : Byte) : (xorPad k p).length = 64 := by
  rw [xorPad, List.length_map, length_hmacK0 h]

theorem length_innerMessage {k : List Byte} (h : k.length ≤ 64) (c : BitVec 64) :
    (xorPad k 0x36 ++ be64 c).length = 72 := by
  rw [List.length_append, length_xorPad h, length_be64]

theorem length_outerMessage {k : List Byte} (h : k.length ≤ 64) (d : Digest) :
    (xorPad k 0x5C ++ d.bytes).length = 84 := by
  rw [List.length_append, length_xorPad h, Digest.length_bytes]

/-- Settles O43: the number of zeros fills the block and no fewer do. -/
theorem paddingRule : Obligations.PaddingRule := by
  refine ⟨fun msg _ => ⟨?_, padZeros msg.length, padZeros_fill _, fun j => padZeros_le, sha1Pad_eq msg⟩, fun k c d h =>
    ⟨length_innerMessage h c, length_outerMessage h d⟩⟩
  have hfill := padZeros_fill msg.length
  rw [length_sha1Pad]
  omega

/-! ### The key blocks (R530) -/

theorem length_keyBytes (s : State) : (keyBytes s).length = s.keyLen.toNat := by
  rw [keyBytes, List.length_map, List.length_range]

section
variable {s : State} (hlen : s.keyLen.toNat ≤ 64) (htail : ∀ i, s.keyLen.toNat ≤ i → s.key.read i = 0)

include hlen in
theorem length_keyBytes_le : (keyBytes s).length ≤ 64 := (length_keyBytes s).trans_le hlen

include hlen htail in
/-- The key buffer already is K0 (R530). -/
theorem hmacK0_keyBytes : hmacK0 (keyBytes s) = (List.range 64).map s.key.read := by
  refine List.ext_getElem (by rw [length_hmacK0 (length_keyBytes_le hlen)]; simp) fun i h₁ h₂ => ?_
  rw [List.getElem_map, List.getElem_range]
  simp only [hmacK0, List.getElem_append, length_keyBytes, List.getElem_replicate]
  split
  · simp [keyBytes]
  · exact (htail i (by omega)).symm

include hlen htail in
/-- Byte i of K0 xor a pad byte. -/
theorem xorPad_keyBytes_getD (p : Byte) {i : Nat} (hi : i < 64) :
    (xorPad (keyBytes s) p).getD i 0 = s.key.read i ^^^ p := by
  rw [xorPad, hmacK0_keyBytes hlen htail]
  simp [hi]

include hlen htail in
/-- The first block of a keyed message is the key block xor the pad word (R530). -/
theorem blockAt_xorPad (p : Byte) : blockAt (xorPad (keyBytes s) p) 0 = keyedBlock (keyBlock s) (be32 p p p p) := by
  refine blockOf_congr fun j hj => ?_
  have hw : (keyBlock s)[slot j] = keyWord s j := by
    refine (getElem_blockOf _ (slot j).isLt).trans ?_
    rw [slot_val, Nat.mod_eq_of_lt hj]
  rw [hw, keyWord, ← be32_xor, be32At]
  simp (disch := omega) only [Nat.zero_add, xorPad_keyBytes_getD hlen htail]

end

/-! ### The two blocks of a padded message (R504, R506, R531) -/

/-- A message whose first block is `a`: the padding comes behind the rest of it. -/
theorem sha1Pad_append (a b : List Byte) : sha1Pad (a ++ b) =
    a ++ (b ++ 0x80 :: (List.replicate (padZeros (a.length + b.length)) 0 ++
      be64 (BitVec.ofNat 64 (8 * (a.length + b.length))))) := by
  rw [sha1Pad, List.append_assoc, List.length_append]; rfl

/-- The first 64 bytes of a padded message are its first block, and the padded rest its second. -/
theorem blocks_of_sha1Pad_append {a b : List Byte} {m : Block} (ha : a.length = 64)
    (hb : b ++ 0x80 :: (List.replicate (padZeros (64 + b.length)) 0 ++ be64 (BitVec.ofNat 64 (8 * (64 + b.length)))) =
      m.toList.flatMap bytesOfWord) :
    blockAt (sha1Pad (a ++ b)) 0 = blockAt a 0 ∧ blockAt (sha1Pad (a ++ b)) 64 = m := by
  rw [sha1Pad_append, ha, hb]
  refine ⟨blockAt_append_left ha _, ?_⟩
  rw [← ha, blockAt_append_right, blockAt_toList_flatMap]

/-- Two compressions hash a message whose padding ends with its second block. -/
theorem sha1_of_two_blocks {msg : List Byte} (h : (sha1Pad msg).length = 128) :
    sha1 msg = sha1Compress (sha1Compress sha1Iv (blockAt (sha1Pad msg) 0)) (blockAt (sha1Pad msg) 64) := by
  rw [sha1, h, Config.sha1BlockBytes]
  simp only [List.range_succ, List.range_zero, List.nil_append, List.foldl_append, List.foldl_cons, List.foldl_nil,
    Nat.reduceDiv, Nat.mul_zero, Nat.mul_one]

/-- Behind the counter stand 0x80, 47 zeros and BE64(576). -/
theorem counterBlock_bytes (hi lo : Word) :
    be64 (hi ++ lo) ++ 0x80 :: (List.replicate (padZeros 72) 0 ++ be64 (BitVec.ofNat 64 (8 * 72))) =
      (counterBlock hi lo).toList.flatMap bytesOfWord := by
  rw [be64_append]; rfl

/-- Behind the inner digest stand 0x80, 35 zeros and BE64(672). -/
theorem innerBlock_bytes (d : Digest) :
    d.bytes ++ 0x80 :: (List.replicate (padZeros 84) 0 ++ be64 (BitVec.ofNat 64 (8 * 84))) =
      (innerBlock d).toList.flatMap bytesOfWord := by
  rfl

section
variable {k : List Byte} (hk : k.length ≤ 64)
include hk

theorem length_sha1Pad_inner (c : BitVec 64) : (sha1Pad (xorPad k 0x36 ++ be64 c)).length = 128 := by
  rw [length_sha1Pad, length_innerMessage hk]; rfl

theorem length_sha1Pad_outer (d : Digest) : (sha1Pad (xorPad k 0x5C ++ d.bytes)).length = 128 := by
  rw [length_sha1Pad, length_outerMessage hk]; rfl

end

/-! ### The four phases compute HMAC-SHA1 (R531, R532) -/

section
variable {s : State} (hlen : s.keyLen.toNat ≤ 64) (htail : ∀ i, s.keyLen.toNat ≤ i → s.key.read i = 0)
include hlen htail

/-- The blocks of phases 0 and 1 are those of the inner message. -/
theorem innerMessage_blocks :
    blockAt (sha1Pad (xorPad (keyBytes s) 0x36 ++ be64 (counter s))) 0 = ipadBlock (keyBlock s) ∧
      blockAt (sha1Pad (xorPad (keyBytes s) 0x36 ++ be64 (counter s))) 64 = counterBlock s.ctrHi s.ctrLo := by
  have hpad : be32 0x36 0x36 0x36 0x36 = 0x36363636 := by decide
  obtain ⟨hfirst, hsecond⟩ :=
    blocks_of_sha1Pad_append (length_xorPad (length_keyBytes_le hlen) 0x36) (counterBlock_bytes s.ctrHi s.ctrLo)
  exact ⟨by rw [counter, hfirst, blockAt_xorPad hlen htail, hpad, ipadBlock], hsecond⟩

/-- The blocks of phases 2 and 3 are those of the outer message. -/
theorem outerMessage_blocks (d : Digest) :
    blockAt (sha1Pad (xorPad (keyBytes s) 0x5C ++ d.bytes)) 0 = opadBlock (keyBlock s) ∧
      blockAt (sha1Pad (xorPad (keyBytes s) 0x5C ++ d.bytes)) 64 = innerBlock d := by
  have hpad : be32 0x5C 0x5C 0x5C 0x5C = 0x5C5C5C5C := by decide
  obtain ⟨hfirst, hsecond⟩ :=
    blocks_of_sha1Pad_append (length_xorPad (length_keyBytes_le hlen) 0x5C) (innerBlock_bytes d)
  exact ⟨by rw [hfirst, blockAt_xorPad hlen htail, hpad, opadBlock], hsecond⟩

theorem sha1_innerMessage : sha1 (xorPad (keyBytes s) 0x36 ++ be64 (counter s)) =
    sha1Compress (sha1Compress sha1Iv (ipadBlock (keyBlock s))) (counterBlock s.ctrHi s.ctrLo) := by
  obtain ⟨hfirst, hsecond⟩ := innerMessage_blocks hlen htail
  rw [sha1_of_two_blocks (length_sha1Pad_inner (length_keyBytes_le hlen) _), hfirst, hsecond]

theorem sha1_outerMessage (d : Digest) : sha1 (xorPad (keyBytes s) 0x5C ++ d.bytes) =
    sha1Compress (sha1Compress sha1Iv (opadBlock (keyBlock s))) (innerBlock d) := by
  obtain ⟨hfirst, hsecond⟩ := outerMessage_blocks hlen htail d
  rw [sha1_of_two_blocks (length_sha1Pad_outer (length_keyBytes_le hlen) d), hfirst, hsecond]

end

/-- Settles O44: the first blocks are K0 xor the pads, the second blocks the rest and the padding. -/
theorem phaseBlocksArePaddedMessages : Obligations.PhaseBlocksArePaddedMessages := by
  intro s d hlen htail
  have hk := length_keyBytes_le hlen
  obtain ⟨hipad, hcounter⟩ := innerMessage_blocks hlen htail
  obtain ⟨hopad, hinner⟩ := outerMessage_blocks hlen htail d
  exact ⟨length_sha1Pad_inner hk _, length_sha1Pad_outer hk d, hipad, hcounter, hopad, hinner⟩

/-- The sequence in R505's terms, from whatever the unit held. -/
theorem ShaUnit.hmacSequence_h_eq (u : ShaUnit) (kw : Block) (hi lo : Word) :
    (u.hmacSequence kw hi lo).h =
      sha1Compress (sha1Compress sha1Iv (opadBlock kw))
        (innerBlock (sha1Compress (sha1Compress sha1Iv (ipadBlock kw)) (counterBlock hi lo))) := by
  simp only [hmacSequence, phase0, phase1, phase2, phase3, compress_eq_sha1Compress, compress_ih, startPhase_h,
    startPhase_ih, keepInner_ih]

/-- The sequencer's MAC is HMAC-SHA1 (R532). -/
theorem keyedDigest_eq_hmacSha1 {s : State} (hlen : s.keyLen.toNat ≤ 64)
    (htail : ∀ i, s.keyLen.toNat ≤ i → s.key.read i = 0) :
    keyedDigest s = hmacSha1 (keyBytes s) (be64 (counter s)) := by
  rw [keyedDigest, ShaUnit.hmacSequence_h_eq, hmacSha1, sha1_innerMessage hlen htail, sha1_outerMessage hlen htail]

/-- Settles O40: HMAC completes, with the sequencer's MAC. -/
theorem macIsHmacSha1 : Obligations.MacIsHmacSha1 := by
  intro s hk hlen htail
  refine ⟨_, exec_hmac_key hk, ?_⟩
  rw [releaseSha_mac, setMac_mac, keyedDigest_eq_hmacSha1 hlen htail, counter]

end Sys2Proof.Machine

/-! PROOFS. The result commands HMAC, HOTP, TRUNC and MOD (42_hmac_sha1.md R535; 43_truncate_modulo.md R600, R610,
R620): what they leave alone, and that key and counter determine the results. -/

namespace Sys2Proof.Machine

/-! ### Without a key (R535, R620) -/

/-- Settles O39: both commands raise NO_KEY through the latch. -/
theorem noKeyNoResult : Obligations.NoKeyNoResult := fun _ hk => ⟨exec_hmac_noKey hk, exec_hotp_noKey hk⟩

/-! ### Frames -/

/-- At most the result registers, ERR and the hidden registers differ. -/
def SameButResults (s t : State) : Prop :=
  t = { s with mac := t.mac, hotpVal := t.hotpVal, code := t.code, codeBcd := t.codeBcd, err := t.err,
               sha := t.sha, modu := t.modu, freeCount := t.freeCount }

theorem sameButResults_raiseError (s : State) (c : ErrCode) : SameButResults s (raiseError s c) := by rfl

theorem sameButResults_hmac (s : State) (d : Digest) : SameButResults s (releaseSha (setMac s d)) := by rfl

theorem sameButResults_hotp (s : State) (d : Digest) :
    SameButResults s (releaseModu (releaseSha (writeHotp s d))) := by rfl

theorem sameButResults_trunc (s : State) (v : Word) : SameButResults s (setHotpVal s v) := by rfl

theorem sameButResults_mod (s : State) (x : Word) : SameButResults s (releaseModu (writeCode s x)) := by rfl

theorem sameButResults_of_exec {i : Instr} {s t : State} (hi : i = .hmac ∨ i = .hotp ∨ i = .trunc ∨ i = .mod)
    (h : exec i s = .next t) : SameButResults s t := by
  rcases hi with rfl | rfl | rfl | rfl
  · rcases exec_hmac_cases h with ⟨-, rfl⟩ | ⟨-, rfl⟩
    · exact sameButResults_raiseError s _
    · exact sameButResults_hmac s _
  · rcases exec_hotp_cases h with ⟨-, rfl⟩ | ⟨-, rfl⟩
    · exact sameButResults_raiseError s _
    · exact sameButResults_hotp s _
  · obtain rfl := Host.Outcome.next.inj h
    exact sameButResults_trunc s _
  · obtain rfl := Host.Outcome.next.inj h
    exact sameButResults_mod s _

/-- HMAC leaves HOTP_VAL, CODE, CODE_BCD and the modulo unit alone, with a key and without (R535). -/
theorem exec_hmac_keeps {s t : State} (h : exec .hmac s = .next t) :
    t.hotpVal = s.hotpVal ∧ t.code = s.code ∧ t.codeBcd = s.codeBcd ∧ t.modu = s.modu := by
  rcases exec_hmac_cases h with ⟨-, rfl⟩ | ⟨-, rfl⟩ <;> simp

/-- With a key HMAC and HOTP leave ERR alone (R535, R620). -/
theorem err_of_exec_key {i : Instr} {s t : State} (hi : i = .hmac ∨ i = .hotp) (hk : s.keyValid = true)
    (h : exec i s = .next t) : t.err = s.err := by
  rcases hi with rfl | rfl
  · rw [exec_hmac_key hk, Host.Outcome.next.injEq] at h
    rw [← h, releaseSha_err, setMac_err]
  · rw [exec_hotp_key hk, Host.Outcome.next.injEq] at h
    rw [← h, releaseModu_err, releaseSha_err]
    simp [writeHotp, writeCode]

/-- Settles O50: one frame lemma per clause. -/
theorem resultCommandFrame : Obligations.ResultCommandFrame := by
  intro i s t h
  refine ⟨fun hi => ?_, ?_, ?_, ?_, fun hi hk => err_of_exec_key hi hk h⟩
  · have hsame := sameButResults_of_exec hi h
    exact ⟨hsame, fun j => congrArg (·.key.read j) hsame⟩
  · rintro rfl
    exact exec_hmac_keeps h
  · rintro rfl
    obtain rfl := Host.Outcome.next.inj h
    simp
  · rintro rfl
    obtain rfl := Host.Outcome.next.inj h
    simp [writeCode]

/-! ### Key and counter determine the results (R535, R620) -/

theorem keyBlock_congr {s s' : State} (h : s.key = s'.key) : keyBlock s = keyBlock s' :=
  blockOf_congr fun i _ => by simp only [keyWord, h]

/-- The digest depends on the key buffer and the counter alone. -/
theorem keyedDigest_congr {s s' : State} (hkey : s.key = s'.key) (hhi : s.ctrHi = s'.ctrHi) (hlo : s.ctrLo = s'.ctrLo) :
    keyedDigest s = keyedDigest s' := by
  rw [keyedDigest, keyedDigest, ShaUnit.hmacSequence_h_eq, ShaUnit.hmacSequence_h_eq, keyBlock_congr hkey, hhi, hlo]

/-- The result registers after HMAC with a key. -/
theorem results_of_hmac {s t : State} (hk : s.keyValid = true) (h : exec .hmac s = .next t) :
    results t = { results s with mac := keyedDigest s } := by
  rw [exec_hmac_key hk, Host.Outcome.next.injEq] at h
  rw [← h, results_releaseSha]
  rfl

/-- HOTP overwrites every result register: the old ones do not matter. -/
theorem Results.hotp_congr (r r' : Results) (d : Digest) :
    { r with mac := d }.truncated.reduced = { r' with mac := d }.truncated.reduced := by rfl

/-- Settles O51: equal digests, and everything else HOTP writes is a function of its digest. -/
theorem keyAndCounterDetermineCode : Obligations.KeyAndCounterDetermineCode := by
  intro s s' t t' hk hk' hkey hhi hlo
  have hd := keyedDigest_congr hkey hhi hlo
  refine ⟨fun h h' => ?_, fun h h' => ?_⟩
  · have hmac := congrArg Results.mac (results_of_hmac hk h)
    have hmac' := congrArg Results.mac (results_of_hmac hk' h')
    exact hmac.trans (hd.trans hmac'.symm)
  · have heq : results t = results t' := by
      rw [results_of_hotp hk h, results_of_hotp hk' h', hd, Results.hotp_congr (results s) (results s')]
    exact ⟨congrArg Results.mac heq, congrArg Results.hotpVal heq, congrArg Results.code heq,
      congrArg Results.codeBcd heq⟩

end Sys2Proof.Machine

/-! PROOFS. The modulo unit's datapath (43_truncate_modulo.md R612): shifting bits in, restoring division by 1000000
computes R602's remainder, and double dabble computes R603's digits. -/

namespace Sys2Proof.Machine

/-! ### Bits shifted in, most significant first -/

theorem toNat_shiftIn {w : Nat} {x : BitVec w} {b : Bool} (h : 2 * x.toNat + b.toNat < 2 ^ w) :
    ((x <<< 1) ||| (BitVec.ofBool b).setWidth w).toNat = 2 * x.toNat + b.toNat := by
  have hb : b.toNat < 2 ^ 1 := b.toNat_lt
  have hx : x.toNat <<< 1 = 2 * x.toNat := (Nat.shiftLeft_eq _ _).trans (Nat.mul_comm _ _)
  rw [BitVec.toNat_or, BitVec.toNat_shiftLeft, BitVec.toNat_setWidth, BitVec.toNat_ofBool, hx,
    Nat.mod_eq_of_lt (by omega), Nat.mod_eq_of_lt (by omega), ← hx, ← Nat.shiftLeft_add_eq_or_of_lt hb, hx]

/-- The bits of `x` from bit n up are those from bit n + 1 up, with bit n shifted in. -/
theorem toNat_div_two_pow {w : Nat} (x : BitVec w) (n : Nat) :
    x.toNat / 2 ^ n = 2 * (x.toNat / 2 ^ (n + 1)) + (x.getLsbD n).toNat := by
  have hbit : (x.getLsbD n).toNat = x.toNat / 2 ^ n % 2 := Nat.toNat_testBit _ _
  rw [hbit, pow_succ, ← Nat.div_div_eq_div_mul]
  omega

/-! ### The remainder loop -/

theorem ModUnit.divideBit_rem {u : ModUnit} (b : Bool) (h : u.rem.toNat < 1000000) :
    (u.divideBit b).rem.toNat = (2 * u.rem.toNat + b.toNat) % 1000000 := by
  have hb := b.toNat_lt
  have hr := toNat_shiftIn (x := u.rem) (b := b) (by omega)
  have hm : Config.modulus = 1000000 := by decide
  simp only [divideBit, hm, hr]
  split
  case isTrue hge =>
    rw [BitVec.toNat_sub_of_le (by rw [BitVec.le_def, hr]; exact hge), hr, BitVec.toNat_ofNat]
    omega
  case isFalse hlt => rw [hr, Nat.mod_eq_of_lt (by omega)]

/-- The loop takes the remainder of the bits above n to the remainder of `x`. -/
theorem ModUnit.divide_rem (x : Word) (n : Nat) {u : ModUnit} (h : u.rem.toNat = x.toNat / 2 ^ n % 1000000) :
    (ModUnit.divide x n u).rem.toNat = x.toNat % 1000000 := by
  induction n generalizing u with
  | zero => rw [divide, h, pow_zero, Nat.div_one]
  | succ n ih =>
    refine ih ?_
    rw [divideBit_rem _ (by omega), h, toNat_div_two_pow x n]
    omega

/-- The step counter counts remainder steps. -/
theorem ModUnit.divide_steps (x : Word) (n : Nat) (u : ModUnit) :
    (ModUnit.divide x n u).steps = u.steps + BitVec.ofNat 6 n := by
  induction n generalizing u with
  | zero => simp [divide]
  | succ n ih =>
    have hs : (u.divideBit (x.getLsbD n)).steps = u.steps + BitVec.ofNat 6 1 := by rfl
    rw [divide, ih, hs, BitVec.add_assoc, ← BitVec.ofNat_add, Nat.add_comm]

/-! ### Double dabble doubles a decimal number -/

/-- A digit that will carry when it is doubled, moved on by 3: doubling it then carries out of its nibble. -/
def adjustDigit (d : Nat) : Nat := if 5 ≤ d then d + 3 else d

theorem adjustDigit_lt {d : Nat} (h : d < 10) : adjustDigit d < 16 := by
  unfold adjustDigit; split <;> omega

/-- The packed number by its lowest nibble. -/
theorem nibbleSum_cons (f : Nat → Nat) (n : Nat) :
    nibbleSum f (n + 1) = f 0 + 16 * nibbleSum (fun k => f (k + 1)) n := by
  induction n with
  | zero => simp [nibbleSum]
  | succ n ih =>
    rw [nibbleSum_succ, ih, nibbleSum_succ, pow_succ]
    ring

/-- Doubling the packed adjusted digits of `y`, with a carry in, packs the digits of the doubled number: by induction
from the lowest digit, whose carry goes into the next one. -/
theorem double_adjusted_digits (n : Nat) {y c : Nat} (hc : c ≤ 1) (h : 2 * y + c < 10 ^ n) :
    2 * nibbleSum (fun k => adjustDigit (y / 10 ^ k % 10)) n + c =
      nibbleSum (fun k => (2 * y + c) / 10 ^ k % 10) n := by
  induction n generalizing y c with
  | zero => simp only [nibbleSum, List.range_zero, List.map_nil, List.sum_nil]; omega
  | succ n ih =>
    obtain ⟨c', hc', hcarry, hlow⟩ : ∃ c', c' ≤ 1 ∧ (2 * y + c) / 10 = 2 * (y / 10) + c' ∧
        2 * adjustDigit (y % 10) + c = (2 * y + c) % 10 + 16 * c' := by
      unfold adjustDigit
      split
      · exact ⟨1, by omega, by omega, by omega⟩
      · exact ⟨0, by omega, by omega, by omega⟩
    have hnext := ih hc' (y := y / 10) (by rw [pow_succ] at h; omega)
    simp only [nibbleSum_cons, pow_succ', ← Nat.div_div_eq_div_mul, pow_zero, Nat.div_one, hcarry]
    omega

/-- The nibbles or-ed together, as the datapath packs them, are their sum. -/
theorem toNat_orNibbles {w : Nat} {f : Nat → Nat} (hf : ∀ k, f k < 16) {n : Nat} (hn : 4 * n ≤ w) :
    (((List.range n).map fun k => BitVec.ofNat w (f k <<< (4 * k))).foldl (· ||| ·) 0).toNat = nibbleSum f n := by
  induction n with
  | zero => simp [nibbleSum]
  | succ n ih =>
    have hp : 2 ^ (4 * n) = 16 ^ n := pow_mul 2 4 n
    have hlow : nibbleSum f n < 2 ^ (4 * n) := hp ▸ nibbleSum_lt hf n
    have htop : f n <<< (4 * n) < 2 ^ w := by
      calc f n <<< (4 * n) = f n * 2 ^ (4 * n) := Nat.shiftLeft_eq _ _
        _ < 2 ^ 4 * 2 ^ (4 * n) := Nat.mul_lt_mul_of_pos_right (hf n) (by positivity)
        _ = 2 ^ (4 * (n + 1)) := by ring
        _ ≤ 2 ^ w := Nat.pow_le_pow_right (by decide) hn
    rw [List.range_succ, List.map_append, List.foldl_append, List.map_singleton, List.foldl_cons, List.foldl_nil,
      BitVec.toNat_or, ih (by omega), BitVec.toNat_ofNat, Nat.mod_eq_of_lt htop, Nat.or_comm,
      ← Nat.shiftLeft_add_eq_or_of_lt hlow, nibbleSum_succ, Nat.shiftLeft_eq, hp, Nat.add_comm]

/-- The adjustment acts on the decimal digits. -/
theorem dabbleAdjust_of_bcd6 {bcd : BitVec 24} {y : Nat} (h : bcd.toNat = bcd6 y) :
    (dabbleAdjust bcd).toNat = nibbleSum (fun k => adjustDigit (y / 10 ^ k % 10)) 6 := by
  have hpacked : dabbleAdjust bcd = ((List.range 6).map fun k =>
      BitVec.ofNat 24 (adjustDigit (y / 10 ^ k % 10) <<< (4 * k))).foldl (· ||| ·) 0 := by
    refine congrArg (List.foldl _ _) (List.map_congr_left fun k hk => ?_)
    have hdigit : bcd.toNat / 16 ^ k % 16 = y / 10 ^ k % 10 := by
      rw [h, show 16 ^ k = 2 ^ (4 * k) from (pow_mul 2 4 k).symm, bcd6_digit y (List.mem_range.1 hk)]
    simp only [hdigit, adjustDigit]
  rw [hpacked]
  exact toNat_orNibbles (fun k => adjustDigit_lt (Nat.mod_lt _ (by decide))) (by decide)

/-- One conversion step doubles the decimal number and adds the bit. -/
theorem dabbleBit_of_bcd6 {bcd : BitVec 24} {y : Nat} (h : bcd.toNat = bcd6 y) (b : Bool)
    (hlt : 2 * y + b.toNat < 10 ^ 6) : (dabbleBit bcd b).toNat = bcd6 (2 * y + b.toNat) := by
  have hdouble := double_adjusted_digits 6 (Nat.le_of_lt_succ b.toNat_lt) hlt
  rw [← dabbleAdjust_of_bcd6 h, ← bcd6_eq_nibbleSum] at hdouble
  rw [dabbleBit, toNat_shiftIn (hdouble ▸ bcd6_lt _), hdouble]

/-- The loop takes the digits of the bits above n to the digits of `r`. -/
theorem dabble_of_bcd6 {r : BitVec 21} (hr : r.toNat < 10 ^ 6) (n : Nat) {bcd : BitVec 24}
    (h : bcd.toNat = bcd6 (r.toNat / 2 ^ n)) : (dabble r n bcd).toNat = bcd6 r.toNat := by
  induction n generalizing bcd with
  | zero => rw [dabble, h, pow_zero, Nat.div_one]
  | succ n ih =>
    have hbit := toNat_div_two_pow r n
    refine ih ?_
    rw [hbit]
    exact dabbleBit_of_bcd6 h _ (hbit ▸ (Nat.div_le_self _ _).trans_lt hr)

/-! ### The whole datapath -/

/-- Settles O49: the remainder loop from an empty remainder, then the conversion loop from no digits. -/
theorem moduloDatapath : Obligations.ModuloDatapath := by
  intro u x
  have hx : x.toNat / 2 ^ 32 = 0 := Nat.div_eq_of_lt x.isLt
  have hrem : (ModUnit.divide x 32 u.load).rem.toNat = x.toNat % 1000000 :=
    ModUnit.divide_rem x 32 (by rw [hx]; rfl)
  have hlt : (ModUnit.divide x 32 u.load).rem.toNat < 10 ^ 6 := by omega
  have hnone : (ModUnit.divide x 32 u.load).rem.toNat / 2 ^ 20 = 0 := by omega
  refine ⟨hrem, ?_, ?_⟩
  · rw [← hrem]
    exact dabble_of_bcd6 hlt 20 (by rw [hnone]; rfl)
  · change (ModUnit.divide x 32 u.load).steps + 20 = 52
    rw [ModUnit.divide_steps]
    rfl

end Sys2Proof.Machine

/-! PROOFS. Dynamic truncation as a window of bits (43_truncate_modulo.md R601): a string of bytes read as one bit
vector, and the commands TRUNC, MOD and HOTP (R600, R610, R620). -/

namespace Sys2Proof.Machine

/-! ### Strings of bytes as one bit vector, the first byte most significant (00_scope.md R10) -/

/-- Byte i of the string is byte i of the vector, counted from the most significant end. -/
structure BytesOf (s : List Byte) {n : Nat} (v : BitVec n) : Prop where
  width : n = 8 * s.length
  byte : ∀ i, i < s.length → s.getD i 0 = v.extractLsb' (8 * (s.length - 1 - i)) 8

theorem bytesOf_bytesOfWord (w : Word) : BytesOf (bytesOfWord w) w := by
  refine ⟨rfl, fun i hi => ?_⟩
  match i, hi with
  | 0, _ | 1, _ | 2, _ | 3, _ => rfl

theorem BytesOf.append {s t : List Byte} {m n : Nat} {v : BitVec m} {w : BitVec n} (hs : BytesOf s v)
    (ht : BytesOf t w) : BytesOf (s ++ t) (v ++ w) := by
  obtain ⟨rfl, hv⟩ := hs
  obtain ⟨rfl, hw⟩ := ht
  refine ⟨by rw [List.length_append]; omega, fun i hi => ?_⟩
  rw [List.length_append] at hi ⊢
  rcases Nat.lt_or_ge i s.length with h | h
  · rw [List.getD_append _ _ _ _ h, hv i h, BitVec.extractLsb'_append_eq_of_le (by omega)]
    congr 1
    omega
  · rw [List.getD_append_right _ _ _ _ h, hw _ (by omega), BitVec.extractLsb'_append_eq_of_add_le (by omega)]
    congr 1
    omega

/-- Four bytes in a row are a window of 32 bits. -/
theorem BytesOf.be32At_eq {s : List Byte} {n : Nat} {v : BitVec n} (h : BytesOf s v) {i : Nat} (hi : i + 4 ≤ s.length) :
    be32At s i = v.extractLsb' (8 * (s.length - 4 - i)) 32 := by
  rw [be32At, be32_eq_append, h.byte i (by omega), h.byte (i + 1) (by omega), h.byte (i + 2) (by omega),
    h.byte (i + 3) (by omega),
    BitVec.extractLsb'_append_extractLsb'_eq_extractLsb' (by omega),
    BitVec.extractLsb'_append_extractLsb'_eq_extractLsb' (by omega),
    BitVec.extractLsb'_append_extractLsb'_eq_extractLsb' (by omega)]
  congr 1
  omega

/-! ### TRUNC (R600, R601) -/

/-- MAC0 || .. || MAC4, the 160 bits R601 numbers. -/
def Digest.bits (d : Digest) : BitVec 160 := d.h0 ++ d.h1 ++ d.h2 ++ d.h3 ++ d.h4

theorem Digest.bytesOf_bytes (d : Digest) : BytesOf d.bytes d.bits :=
  ((((bytesOf_bytesOfWord d.h0).append (bytesOf_bytesOfWord d.h1)).append (bytesOf_bytesOfWord d.h2)).append
    (bytesOf_bytesOfWord d.h3)).append (bytesOf_bytesOfWord d.h4)

theorem Digest.be32At_bytes (d : Digest) {off : Nat} (h : off < 16) :
    be32At d.bytes off = d.bits.extractLsb' (128 - 8 * off) 32 := by
  rw [d.bytesOf_bytes.be32At_eq (by rw [length_bytes]; omega), length_bytes]
  congr 1
  omega

/-- The low four bits of byte 19 are those of MAC4. -/
theorem Digest.toNat_offset (d : Digest) : (d.bytes.getD 19 0 &&& Config.offsetMask).toNat = d.h4.toNat % 16 := by
  have hbyte : d.bytes.getD 19 0 = d.h4.extractLsb' 0 8 := by rfl
  rw [hbyte, BitVec.toNat_and, BitVec.extractLsb'_toNat, Nat.shiftRight_zero]
  exact (Nat.and_two_pow_sub_one_eq_mod _ 4).trans (Nat.mod_mod_of_dvd _ (by decide))

theorem Digest.dynTrunc_bytes (d : Digest) :
    dynTrunc d.bytes = d.bits.extractLsb' (128 - 8 * (d.h4.toNat % 16)) 32 &&& Config.hotpMask := by
  rw [dynTrunc, toNat_offset, be32At_bytes d (Nat.mod_lt _ (by decide))]

/-- Settles O45: four bytes of the digest are a window of its 160 bits. -/
theorem truncWindow : Obligations.TruncWindow := by
  intro s
  have hoff : s.mac.h4.toNat % 16 < 16 := Nat.mod_lt _ (by decide)
  exact ⟨s.mac.toNat_offset.symm, by omega, (s.mac.be32At_bytes hoff).symm, s.mac.dynTrunc_bytes,
    (exec_trunc s).trans (congrArg (fun v => (.next (setHotpVal s v) : Result)) s.mac.dynTrunc_bytes)⟩

/-! ### MOD and HOTP (R610, R620) -/

/-- Settles O46: MOD writes the reduced HOTP_VAL, then its digits. -/
theorem modCompletes : Obligations.ModCompletes := fun s => ⟨_, _, exec_mod s⟩

/-- HOTP's writes, field by field. -/
theorem release_writeHotp (s : State) (d : Digest) : releaseModu (releaseSha (writeHotp s d)) =
    { s with mac := d, hotpVal := dynTrunc d.bytes, code := BitVec.ofNat 32 (reduce (dynTrunc d.bytes)),
             codeBcd := BitVec.ofNat 32 (bcd6 (reduce (dynTrunc d.bytes))), sha := freeSha s.freeCount,
             modu := freeModu (s.freeCount + 1), freeCount := s.freeCount + 1 + 1 } := by rfl

/-- Settles O47: by `exec_hotp_key`. -/
theorem hotpCompletes : Obligations.HotpCompletes := by
  intro s hk
  have hd : keyedDigest s = (s.sha.hmacSequence (keyBlock s) s.ctrHi s.ctrLo).h := by rw [keyedDigest]
  rw [← hd]
  exact ⟨_, _, _, (exec_hotp_key hk).trans (congrArg _ (release_writeHotp s _))⟩

/-- TRUNC and MOD after the digest is in MAC write what HOTP writes. -/
theorem eraseHidden_trunc_mod (s : State) (d : Digest) :
    { eraseHidden (releaseModu (releaseSha (writeHotp s d))) with freeCount := 0 } =
      { eraseHidden (releaseModu (writeCode (setHotpVal (releaseSha (setMac s d)) (dynTrunc d.bytes))
          (dynTrunc d.bytes))) with freeCount := 0 } := by rfl

/-- Settles O48: HMAC leaves the same digest in MAC that HOTP truncates and reduces. -/
theorem hotpIsHmacTruncMod : Obligations.HotpIsHmacTruncMod := fun s hk =>
  ⟨_, _, _, _, exec_hotp_key hk, exec_hmac_key hk, exec_trunc _, exec_mod _,
    eraseHidden_trunc_mod s (keyedDigest s)⟩

end Sys2Proof.Machine

/-! PROOFS. The control commands NOP, SRST and CLRERR (44_control.md R700, R705, R710). -/

namespace Sys2Proof.Machine

/-- Reset() puts the reset value into every register of the block (R705, R902): of the state before it only the
model's bookkeeping remains, which `blockState` leaves out. -/
theorem blockState_applyReset (s : State) : blockState (applyReset s) = blockState State.reset := by rfl

/-- Settles O26: one lemma per command. -/
theorem controlCommands : Obligations.ControlCommands := fun s =>
  ⟨exec_nop s, exec_clrerr s, applyReset s, exec_srst s, blockState_applyReset s⟩

end Sys2Proof.Machine

/-! PROOFS. Errors (60_exceptions.md R801 to R830): which error each command raises, what a step can do to ERR and OVR,
said once, and that no command looks at ERR. -/

namespace Sys2Proof.Machine

/-! ### The error of each command (R830) -/

/-- The error B32CHAR raises, .none for no error. -/
def charError (s : State) (c : Byte) : ErrCode :=
  if s.b32st = .idle then .seq
  else if s.b32st = .error then .none
  else if lut c = .invalid then .b32Char
  else if s.b32st = .full ∨ (s.b32st = .pad ∧ lut c ≠ .pad) ∨
      (s.b32st = .data ∧ lut c = .pad ∧ s.b32pos ≠ 2 ∧ s.b32pos ≠ 4 ∧ s.b32pos ≠ 5 ∧ s.b32pos ≠ 7) then .b32Pad
  else if s.b32st = .data ∧ lut c ≠ .pad ∧ 3 ≤ s.nbits.toNat ∧ 64 ≤ s.keyLen.toNat then .keyOvf
  else .none

/-- The error B32END raises. -/
def endError (s : State) : ErrCode :=
  if s.b32st = .idle then .seq
  else if s.b32st = .pad ∨ (s.b32st = .data ∧ s.b32pos ≠ 0) then .b32Len
  else .none

/-- The error KEYBYTE raises. -/
def keybyteError (s : State) : ErrCode :=
  if s.b32st ≠ .idle ∨ s.keyValid = false then .seq
  else if 64 ≤ s.keyLen.toNat then .keyOvf
  else .none

/-- The error a command raises. -/
def commandError (s : State) : Instr → ErrCode
  | .b32char c => charError s c
  | .b32end => endError s
  | .keybyte _ => keybyteError s
  | .hmac => if s.keyValid = false then .noKey else .none
  | .hotp => if s.keyValid = false then .noKey else .none
  | _ => .none

/-- Raising no error changes nothing. -/
theorem raiseError_none (s : State) : raiseError s .none = s := by
  by_cases h : s.err = .none
  · rw [raiseError_of_none _ h, ← h]
  · exact raiseError_of_err _ h

/-- The shifter emits a byte when three bits or more wait (41_base32.md R421). -/
theorem shift_byte_eq_none_iff (a : BitVec 12) (n : BitVec 3) (v : BitVec 5) :
    (shift a n v).byte = none ↔ n.toNat < 3 := by
  unfold shift
  dsimp only
  split
  · exact iff_of_false nofun (by omega)
  · exact iff_of_true rfl (by omega)

/-- A data character can only overflow the key, with the byte it completes (R420, R422). -/
theorem dataChar_err (s : State) (v : BitVec 5) :
    (dataChar s v).err =
      (raiseError s (if 3 ≤ s.nbits.toNat ∧ 64 ≤ s.keyLen.toNat then .keyOvf else .none)).err := by
  rcases dataChar_cases s v with ⟨hb, h⟩ | ⟨b, hb, hl, h⟩ | ⟨b, -, hl, h⟩ <;> rw [h]
  · have hn : s.nbits.toNat < 3 := (shift_byte_eq_none_iff _ _ v).1 hb
    rw [if_neg (by omega), raiseError_none]; rfl
  · have hn : 3 ≤ s.nbits.toNat :=
      Nat.not_lt.1 fun hlt => by simp [(shift_byte_eq_none_iff _ _ v).2 hlt] at hb
    rw [if_pos ⟨hn, hl⟩]; rfl
  · rw [if_neg (by omega), raiseError_none]; rfl

theorem decodeChar_err (s : State) (c : Byte) : (decodeChar s c).err = (raiseError s (charError s c)).err := by
  unfold charError
  rcases decodeChar_cases s c with ⟨hs, h⟩ | ⟨hs, h⟩ | ⟨hi, he, hc, h⟩ | ⟨v, hs, hc, h⟩ | ⟨hs, hc, hp, h⟩ |
    ⟨hs, hc, hp, h⟩ | ⟨hs, hc, -, h⟩ | ⟨hs, hc, -, h⟩ | ⟨hs, ⟨v, hc⟩, h⟩ | ⟨hs, hc, h⟩ <;> rw [h]
  case inr.inr.inr.inl => rw [dataChar_err]; simp [hs, hc]
  · simp [hs]
  · simp [hs]
  · simp [hi, he, hc, failChar]
  · obtain ((hp | hp) | hp) | hp : ((s.b32pos = 2 ∨ s.b32pos = 4) ∨ s.b32pos = 5) ∨ s.b32pos = 7 := by
      simpa [padLegal] using hp
    all_goals simp [hs, hc, hp]
  · have hpos : s.b32pos ≠ 2 ∧ s.b32pos ≠ 4 ∧ s.b32pos ≠ 5 ∧ s.b32pos ≠ 7 := by
      simpa [padLegal, and_assoc] using hp
    rw [if_neg (by simp [hs]), if_neg (by simp [hs]), if_neg (by simp [hc]), if_pos (.inr (.inr ⟨hs, hc, hpos⟩))]
    rfl
  · simp [hs, hc]
  · simp [hs, hc]
  · simp [hs, hc, failChar]
  · simp [hs, hc, failChar]

theorem endSession_err (s : State) : (endSession s).err = (raiseError s (endError s)).err := by
  unfold endError
  rcases endSession_cases s with ⟨hs, h⟩ | ⟨hs, h⟩ | ⟨hs | ⟨hs, hp⟩, h⟩ | ⟨hs, h⟩ <;> rw [h]
  · simp [hs]
  · simp [hs]
  · simp [hs]
  · simp [hs, hp]
  · have hi : s.b32st ≠ .idle := by rcases hs with hs | ⟨hs, -⟩ <;> simp [hs]
    rw [if_neg hi, if_pos hs]
    rfl

theorem rawKeyByte_err (s : State) (b : Byte) : (rawKeyByte s b).err = (raiseError s (keybyteError s)).err := by
  unfold keybyteError
  rcases rawKeyByte_cases s b with ⟨hs, h⟩ | ⟨hs, hk, hl, h⟩ | ⟨hs, hk, hl, h⟩ <;> rw [h]
  · rw [if_pos hs]
  · rw [if_neg (by simp [hs, hk]), if_pos hl]; rfl
  · rw [if_neg (by simp [hs, hk]), if_neg (by omega), raiseError_none]; rfl

/-- Every command but SRST and CLRERR writes ERR through the latch only, with the error of R830. -/
theorem exec_err {i : Instr} {s t : State} (hs : i ≠ .srst) (hc : i ≠ .clrerr) (h : exec i s = .next t) :
    t.err = (raiseError s (commandError s i)).err := by
  cases i
  case srst => exact absurd rfl hs
  case clrerr => exact absurd rfl hc
  case hmac =>
    rcases exec_hmac_cases h with ⟨hk, rfl⟩ | ⟨hk, rfl⟩ <;> simp [commandError, hk]
  case hotp =>
    rcases exec_hotp_cases h with ⟨hk, rfl⟩ | ⟨hk, rfl⟩ <;> simp [commandError, hk, writeHotp, writeCode]
  all_goals obtain rfl := Host.Outcome.next.inj h
  case b32char c => exact decodeChar_err s c
  case b32end => exact endSession_err s
  case keybyte b => exact rawKeyByte_err s b
  all_goals exact (congrArg State.err (raiseError_none s)).symm

/-- Every command but SRST and CLRERR leaves OVR alone (R812). -/
theorem exec_ovr {i : Instr} {s t : State} (hs : i ≠ .srst) (hc : i ≠ .clrerr) (h : exec i s = .next t) :
    t.ovr = s.ovr := by
  cases i
  case srst => exact absurd rfl hs
  case clrerr => exact absurd rfl hc
  case hmac => rw [show t = _ from sameButResults_of_exec (.inl rfl) h]
  case hotp => rw [show t = _ from sameButResults_of_exec (.inr (.inl rfl)) h]
  all_goals obtain rfl := Host.Outcome.next.inj h
  case b32char c => rw [decodeChar_frame]
  case b32end => rw [endSession_frame]
  case keybyte b => rw [rawKeyByte_frame]
  all_goals rfl

/-- SRST and CLRERR clear both. -/
theorem exec_clears {i : Instr} {s t : State} (hi : i = .srst ∨ i = .clrerr) (h : exec i s = .next t) :
    t.err = .none ∧ t.ovr = false := by
  rcases hi with rfl | rfl <;> obtain rfl := Host.Outcome.next.inj h <;> exact ⟨rfl, rfl⟩

/-- With ERR clear the latch takes the command's error. -/
theorem err_of_exec {i : Instr} {s t : State} (hn : s.err = .none) (h : exec i s = .next t) :
    t.err = commandError s i := by
  by_cases hi : i = .srst ∨ i = .clrerr
  · rw [(exec_clears hi h).1]
    rcases hi with rfl | rfl <;> rfl
  · obtain ⟨hs, hc⟩ := not_or.1 hi
    rw [exec_err hs hc h, raiseError_of_none _ hn]

/-- A word other than SRST issued while BUSY = 1 sets OVR (40_command_issue.md R351). -/
theorem issue_busy {s : State} (hb : s.busy = true) {v : Word} (hv : v ≠ srstWord) : issue s v = .next (setOvr s) := by
  rw [issue, if_pos hb, if_neg hv]

/-- An illegal word issued while BUSY = 0 raises ILLEGAL_CMD (R352). -/
theorem issue_illegal {s : State} (hb : s.busy = false) {v : Word} (hl : legal v = false) :
    issue s v = .next (raiseError s .illegalCmd) := by
  rw [issue, if_neg (by simp [hb]), if_pos hl]

/-- Settles O58: the commands by `err_of_exec`, the issue by its two branches. -/
theorem errorPriority : Obligations.ErrorPriority := by
  refine ⟨fun s t i hn h => ?_, fun s v hn => ⟨fun hb hv => ⟨_, issue_busy hb hv, rfl, hn⟩,
    fun hb hl => ⟨_, issue_illegal hb hl, by rw [raiseError_of_none _ hn]⟩⟩⟩
  rw [err_of_exec hn h]
  cases i <;> rfl

/-! ### What a step can do to ERR and OVR (R810, R812) -/

/-- The writes the block drops while BUSY = 1 (20_memory.md R206, 40_command_issue.md R351). -/
def DroppedWhileBusy (a : BitVec 8) (v : Word) : Prop :=
  (a = 0x00 ∧ v ≠ 0x00000001) ∨ a = 0x08 ∨ a = 0x0C ∨ a = 0x10 ∨ (a.toNat % 4 = 0 ∧ 0x20 ≤ a.toNat ∧ a.toNat ≤ 0x30)

/-- What a step can do to ERR and OVR. -/
inductive FlagStep (s t : State) : Prop
  /-- nothing -/
  | kept (he : t.err = s.err) (ho : t.ovr = s.ovr)
  /-- an error, through the latch -/
  | raised (c : ErrCode) (he : t.err = (raiseError s c).err) (ho : t.ovr = s.ovr)
  /-- a reset or CLRERR -/
  | cleared (hc : resetsNow s ∨ completesNow s .clrerr) (he : t.err = .none) (ho : t.ovr = false)
  /-- a dropped host write -/
  | overrun (a : BitVec 8) (v : Word) (hn : nextTurn s = .host (.write a v)) (hd : DroppedWhileBusy a v)
      (hb : s.busy = true) (he : t.err = s.err) (ho : t.ovr = true)

theorem writeReg_flags (s : State) (r : Reg) (v : Word) :
    (writeReg s r v).err = s.err ∧ (writeReg s r v).ovr = s.ovr := by
  cases r <;> exact ⟨rfl, rfl⟩

theorem resetCycle_flags (s : State) (tx : Option BusTx) :
    (resetCycle s tx).err = .none ∧ (resetCycle s tx).ovr = false := by
  rcases tx with _ | _ | _ <;> exact ⟨rfl, rfl⟩

/-- What a host write can do to ERR and OVR. -/
theorem flagStep_of_writeEffect {s u : State} {a : BitVec 8} {v : Word} (hn : nextTurn s = .host (.write a v))
    (h : WriteEffect (startStep s) a v u) (r : BusResponse) : FlagStep s (respond u r) := by
  cases h with
  | ignored => exact .kept rfl rfl
  | dropped r hr ha hb => exact .overrun a v hn (.inr (address_of_readWrite hr ha)) hb rfl rfl
  | stored r' =>
    obtain ⟨he, ho⟩ := writeReg_flags (startStep s) r' v
    exact .kept he ho
  | reset ha hv =>
    subst ha hv
    exact .cleared (.inl (.inr (.inl hn))) rfl rfl
  | busyCommand ha hv hb => exact .overrun a v hn (.inl ⟨ha, hv⟩) hb rfl rfl
  | illegal => exact .raised .illegalCmd rfl rfl
  | accepted => exact .kept rfl rfl

/-- Everything a step can do to ERR and OVR. -/
theorem flagStep_of_step {s t : State} (h : step s = .next t) : FlagStep s t := by
  cases stepEffect_of_step h with
  | rst tx hn =>
    obtain ⟨he, ho⟩ := resetCycle_flags (startStep s) tx
    exact .cleared (.inl (.inl ⟨tx, hn⟩)) he ho
  | read => exact .kept rfl rfl
  | idle => exact .kept rfl rfl
  | write a v e u hn hu => exact flagStep_of_writeEffect hn hu _
  | completion i u hc hu =>
    by_cases hi : i = .srst ∨ i = .clrerr
    · obtain ⟨he, ho⟩ := exec_clears hi hu
      refine .cleared ?_ he ho
      rcases hi with rfl | rfl
      · exact .inl (.inr (.inr hc))
      · exact .inr hc
    · obtain ⟨hs, hcl⟩ := not_or.1 hi
      have he := exec_err hs hcl hu
      have ho := exec_ovr hs hcl hu
      exact .raised (commandError (startStep s) i) he ho

/-- Settles O55: the latch by its definition, the steps by `FlagStep`. -/
theorem firstErrorIsKept : Obligations.FirstErrorIsKept := by
  refine ⟨fun s c => rfl, fun s t h hne => ?_⟩
  cases flagStep_of_step h with
  | kept he => exact .inl he
  | raised c he => exact .inl (by rw [he, raiseError_of_err c hne])
  | cleared hc he => exact .inr ⟨he, hc⟩
  | overrun a v hn hd hb he => exact .inl he

/-- Settles O56: the dropped writes by O17, the steps by `FlagStep`. -/
theorem ovrIsSticky : Obligations.OvrIsSticky := by
  refine ⟨fun s a v hb ha => ⟨_, busyWritesDropped s a v hb ha, rfl, rfl⟩, fun s t h hs ht => ?_,
    fun s t h hs ht => ?_, raiseError_ovr⟩
  · cases flagStep_of_step h with
    | kept he ho => simp [ho, hs] at ht
    | raised c he ho => simp [ho, hs] at ht
    | cleared hc he ho => simp [ho] at ht
    | overrun a v hn hd hb he => exact ⟨hb, he, a, v, hn, hd⟩
  · cases flagStep_of_step h with
    | kept he ho => simp [ho, hs] at ht
    | raised c he ho => simp [ho, hs] at ht
    | cleared hc => exact hc
    | overrun a v hn hd hb he ho => simp [ho] at ht

/-! ### ERR does not steer a command (R811) -/

/-- `s` with ERR clear. -/
def eraseErr (s : State) : State := { s with err := .none }

section
variable (s : State)

@[simp] theorem eraseErr_keyValid : (eraseErr s).keyValid = s.keyValid := by rfl
@[simp] theorem eraseErr_b32st : (eraseErr s).b32st = s.b32st := by rfl
@[simp] theorem eraseErr_b32pos : (eraseErr s).b32pos = s.b32pos := by rfl
@[simp] theorem eraseErr_acc : (eraseErr s).acc = s.acc := by rfl
@[simp] theorem eraseErr_nbits : (eraseErr s).nbits = s.nbits := by rfl
@[simp] theorem eraseErr_keyLen : (eraseErr s).keyLen = s.keyLen := by rfl

theorem eraseErr_dataChar (v : BitVec 5) : eraseErr (dataChar (eraseErr s) v) = eraseErr (dataChar s v) := by
  simp only [dataChar, append, eraseErr_acc, eraseErr_nbits, eraseErr_keyLen]
  cases (shift s.acc s.nbits v).byte with
  | none => rfl
  | some b => by_cases hl : s.keyLen.toNat < Config.keyMax <;> simp only [hl, if_true, if_false] <;> rfl

theorem eraseErr_firstPad : eraseErr (firstPad (eraseErr s)) = eraseErr (firstPad s) := by
  unfold firstPad
  rw [eraseErr_b32pos]
  split <;> rfl

theorem eraseErr_nextPad : eraseErr (nextPad (eraseErr s)) = eraseErr (nextPad s) := by
  unfold nextPad
  rw [eraseErr_b32pos]
  split <;> rfl

theorem eraseErr_decodeChar (c : Byte) : eraseErr (decodeChar (eraseErr s) c) = eraseErr (decodeChar s c) := by
  unfold decodeChar
  rw [eraseErr_b32st]
  cases lut c with
  | value v =>
    dsimp only
    split_ifs
    · rfl
    · rfl
    · exact eraseErr_dataChar s v
    · rfl
  | pad =>
    dsimp only
    split_ifs
    · rfl
    · rfl
    · exact eraseErr_firstPad s
    · exact eraseErr_nextPad s
    · rfl
  | invalid => split_ifs <;> rfl

theorem eraseErr_endSession : eraseErr (endSession (eraseErr s)) = eraseErr (endSession s) := by
  unfold endSession sessionVerdict
  rw [eraseErr_b32st, eraseErr_b32pos]
  cases s.b32st
  case data => by_cases hp : s.b32pos = 0 <;> simp only [hp, if_true, if_false] <;> rfl
  all_goals rfl

theorem eraseErr_rawKeyByte (b : Byte) : eraseErr (rawKeyByte (eraseErr s) b) = eraseErr (rawKeyByte s b) := by
  unfold rawKeyByte append
  rw [eraseErr_b32st, eraseErr_keyValid, eraseErr_keyLen]
  split
  · rfl
  · by_cases hl : s.keyLen.toNat < Config.keyMax <;> simp only [hl, if_true, if_false] <;> rfl

theorem keyedDigest_eraseErr : keyedDigest (eraseErr s) = keyedDigest s := by rfl

end

/-- A command does the same with ERR clear, up to ERR. -/
theorem exec_eraseErr (i : Instr) (s : State) :
    mapNext eraseErr (exec i (eraseErr s)) = mapNext eraseErr (exec i s) := by
  cases i
  case b32char c => exact congrArg Host.Outcome.next (eraseErr_decodeChar s c)
  case b32end => exact congrArg Host.Outcome.next (eraseErr_endSession s)
  case keybyte b => exact congrArg Host.Outcome.next (eraseErr_rawKeyByte s b)
  case hmac =>
    cases hk : s.keyValid
    · rw [exec_hmac_noKey hk, exec_hmac_noKey (s := eraseErr s) hk]; rfl
    · rw [exec_hmac_key hk, exec_hmac_key (s := eraseErr s) hk, keyedDigest_eraseErr]; rfl
  case hotp =>
    cases hk : s.keyValid
    · rw [exec_hotp_noKey hk, exec_hotp_noKey (s := eraseErr s) hk]; rfl
    · rw [exec_hotp_key hk, exec_hotp_key (s := eraseErr s) hk, keyedDigest_eraseErr]; rfl
  all_goals rfl

/-- Settles O59: both states act as the one with ERR clear. -/
theorem errDoesNotSteer : Obligations.ErrDoesNotSteer := fun i s e =>
  (exec_eraseErr i { s with err := e }).symm.trans (exec_eraseErr i s)

end Sys2Proof.Machine

/-! PROOFS. The two resets, SRST at its issue and a cycle of rst (70_reset_and_hazards.md R902). -/

namespace Sys2Proof.Machine

/-- A cycle of rst without a transaction is Reset(), and SRST at its issue is Reset() with the response of the write:
the response aside, the two leave one state. -/
theorem respond_none_srst_eq_resetCycle (s : State) (r : BusResponse) :
    respond (respond (applyReset (respond s .none)) r) .none = resetCycle (respond s .none) none := by rfl

/-- Settles O13: each step's next state by its own lemma, then that they are equal but for the bus response of the
write. -/
theorem softResetEqualsRst : Obligations.SoftResetEqualsRst := fun s =>
  ⟨_, _, step_write_cmd_srst s, step_rstTurn s none, respond_none_srst_eq_resetCycle s (.written false),
    blockState_resetCycle _ none⟩

end Sys2Proof.Machine
